-- ==== Sys2Proof/Word.lean ====
section
/-! DEFINITION. The word types: a register is 32 bits (10_state.md R23), a byte element 8 (00_scope.md R7). -/

namespace Sys2Proof

/-- One 32-bit register value or command word. -/
abbrev Word := BitVec 32

/-- One byte element of a buffer; a character of the secret string (00_scope.md R12). -/
abbrev Byte := BitVec 8

end Sys2Proof
end

