-- ==== Sys2Proof/Config.lean ====
section
/-! DEFINITION. The instance parameters of 00_scope.md R6 and the free values: what the spec leaves open. -/

namespace Sys2Proof

/-- HMAC_BACKEND (00_scope.md R6, 92_eei_decisions.md D13). -/
inductive Backend where
  /-- The in-block engine, which never fails (43_hmac_sha1.md R169). -/
  | internal
  /-- The library wrapper, which may fail (43_hmac_sha1.md R170). -/
  | external
  deriving DecidableEq, Repr

/-- The parameters a block is instantiated with (00_scope.md R6). LAT is not among them: it may differ at every
operation and input, so it is given per operation (State.latencies) or free (Config.latency). BUS has no effect. -/
structure Params where
  /-- SECRET_CAP, legal from 8 to 256. -/
  secretCap : Nat
  /-- HMAC_BACKEND. -/
  backend : Backend
  deriving DecidableEq, Repr

/-- KEY_CAP = floor(SECRET_CAP × 5 / 8) (00_scope.md R6). -/
def Params.keyCap (p : Params) : Nat := p.secretCap * 5 / 8

/-- The values R6 calls default: SECRET_CAP 256, HMAC_BACKEND INTERNAL. -/
def Params.standard : Params := { secretCap := 256, backend := .internal }

/-- FREE VALUE (log entry 4): SECRET[i] after the reset that drew number `d` (70_reset_and_hazards.md R280, R281). -/
opaque Config.resetSecret : (d i : Nat) → Byte

/-- FREE VALUE (log entry 4): KEY[i] after the reset that drew number `d` (70_reset_and_hazards.md R280, R281). -/
opaque Config.resetKey : (d i : Nat) → Byte

/-- FREE VALUE (log entry 5): what the host reads while BUSY = 1, for draw number `d` (70_reset_and_hazards.md R290). -/
opaque Config.busyRead : (d : Nat) → Word

/-- FREE VALUE (log entry 3): LAT − 1 of the operation accepted with draw number `d` (70_reset_and_hazards.md R293). -/
opaque Config.latency : (d : Nat) → Nat

/-- FREE VALUE (log entry 8): whether the external library answers the request of draw number `d` with a digest
(43_hmac_sha1.md R170). -/
opaque Config.libraryAnswers : (d : Nat) → Bool

end Sys2Proof
end

