-- ==== Sys2Proof/Syntax.lean ====
section
/-! DEFINITION. The commands: one constructor per row of spec/opcode_table.json (30_encoding.md R81). -/

namespace Sys2Proof

/-- A command of the block. No command has an operand field: its operands are fixed registers (30_encoding.md R86). -/
inductive Instr where
  /-- DECODE (40_base32_decoder.md R109). -/
  | decode
  /-- VALIDATE (41_validation.md R132). -/
  | validate
  /-- PACK (42_counter_packer.md R144). -/
  | pack
  /-- HMAC (43_hmac_sha1.md R171). -/
  | hmac
  /-- TRUNC (44_truncation.md R194). -/
  | trunc
  /-- TREM (46_time_remaining.md R232). -/
  | trem
  /-- GENERATE (45_generate.md R210). -/
  | generate
  /-- CLEAR (47_control.md R240). -/
  | clear
  deriving DecidableEq, Repr

end Sys2Proof
end

