-- ==== Sys2Proof/Machine/Bus.lean ====
section
/-! DEFINITION. The host's side of the register window: accesses, the host's actions, the register map of
10_state.md R23 with its address decoder, and the host assembly's lines (30_encoding.md R93, R94). -/

namespace Sys2Proof.Machine

/-- Direction of a host transaction (30_encoding.md R93). -/
inductive Dir where
  | read
  | write
  deriving DecidableEq, Repr

/-- Width of a host transaction; only `word` has a meaning (20_memory.md R62). -/
inductive Width where
  | byte
  | half
  | word
  deriving DecidableEq, Repr

/-- One host transaction: the triple of 30_encoding.md R93 and the width it is made with. The offset is 12 bits
(20_memory.md R60); a read carries data 0. -/
structure Access where
  dir : Dir
  width : Width
  offset : BitVec 12
  data : Word
  deriving DecidableEq, Repr

/-- The accesses that have a meaning: 32 bits wide at a 4-byte-aligned offset (20_memory.md R62). -/
def Access.wf (a : Access) : Bool := a.width == .word && decide (a.offset.toNat % 4 = 0)

/-- What the host or the platform does in one step of the machine. -/
inductive HostEvent where
  /-- Nothing arrives. -/
  | idle
  /-- The platform applies reset (70_reset_and_hazards.md R281). -/
  | reset
  /-- One read or write (20_memory.md R70). -/
  | access (a : Access)
  /-- The `wait` loop: read STATUS until BUSY reads 0 (30_encoding.md R94). -/
  | wait
  deriving DecidableEq, Repr

/-- The registers of the map (10_state.md R23). -/
inductive Reg where
  | id | cmd | status | window | timeLo | timeHi | secretLen | keyLen
  | capHint | decResid | decNvalid | valid
  | epochLo | epochHi | counterLo | counterHi
  | offset | binary | otp | trem
  | code (i : Fin 6)
  | msg (i : Fin 8)
  | digest (i : Fin 20)
  | key (i : Nat)
  | secret (i : Nat)
  deriving DecidableEq, Repr

/-- Access rights of a register (10_state.md R23). -/
inductive Rights where
  | readOnly
  | writeOnly
  | readWrite
  deriving DecidableEq, Repr

/-- The right the map gives each register; the two WARL registers are read-write (10_state.md R23, R28, R29). -/
def Reg.rights : Reg → Rights
  | .cmd => .writeOnly
  | .window | .timeLo | .timeHi | .secretLen | .keyLen => .readWrite
  | .msg _ | .digest _ | .key _ | .secret _ => .readWrite
  | .id | .status | .capHint | .decResid | .decNvalid | .valid => .readOnly
  | .epochLo | .epochHi | .counterLo | .counterHi => .readOnly
  | .offset | .binary | .otp | .trem | .code _ => .readOnly

/-- The byte offset of a register in the window (10_state.md R23). -/
def Reg.offsetOf : Reg → Nat
  | .id => 0x000
  | .cmd => 0x004
  | .status => 0x008
  | .window => 0x00C
  | .timeLo => 0x010
  | .timeHi => 0x014
  | .secretLen => 0x018
  | .keyLen => 0x01C
  | .capHint => 0x020
  | .decResid => 0x024
  | .decNvalid => 0x028
  | .valid => 0x02C
  | .epochLo => 0x030
  | .epochHi => 0x034
  | .counterLo => 0x038
  | .counterHi => 0x03C
  | .offset => 0x040
  | .binary => 0x044
  | .otp => 0x048
  | .trem => 0x04C
  | .code i => 0x050 + 4 * i.val
  | .msg i => 0x080 + 4 * i.val
  | .digest i => 0x0C0 + 4 * i.val
  | .key i => 0x400 + 4 * i
  | .secret i => 0x800 + 4 * i

/-- The element of an `n`-element buffer at `base` that the byte offset `off` names, if it names one: element `i`
sits at base + 4i (10_state.md R48). -/
def bufferIndex (base n off : Nat) : Option (Fin n) :=
  if h : base ≤ off ∧ (off - base) % 4 = 0 ∧ (off - base) / 4 < n then some ⟨(off - base) / 4, h.2.2⟩ else none

/-- The scalar register at a byte offset (10_state.md R23). -/
def scalarAt (off : Nat) : Option Reg :=
  match off with
  | 0x000 => some .id
  | 0x004 => some .cmd
  | 0x008 => some .status
  | 0x00C => some .window
  | 0x010 => some .timeLo
  | 0x014 => some .timeHi
  | 0x018 => some .secretLen
  | 0x01C => some .keyLen
  | 0x020 => some .capHint
  | 0x024 => some .decResid
  | 0x028 => some .decNvalid
  | 0x02C => some .valid
  | 0x030 => some .epochLo
  | 0x034 => some .epochHi
  | 0x038 => some .counterLo
  | 0x03C => some .counterHi
  | 0x040 => some .offset
  | 0x044 => some .binary
  | 0x048 => some .otp
  | 0x04C => some .trem
  | _ => none

/-- The address decoder: the register at a byte offset, `none` where the offset is unmapped (10_state.md R23,
20_memory.md R64). How many KEY and SECRET elements exist depends on the instance. -/
def regAt (p : Params) (off : Nat) : Option Reg :=
  scalarAt off
    <|> (bufferIndex 0x050 6 off).map .code
    <|> (bufferIndex 0x080 8 off).map .msg
    <|> (bufferIndex 0x0C0 20 off).map .digest
    <|> (bufferIndex 0x400 p.keyCap off).map (fun i => .key i.val)
    <|> (bufferIndex 0x800 p.secretCap off).map (fun i => .secret i.val)

/-- A line of a host program: the two transactions of 30_encoding.md R93 and the pseudo-instructions of R94.
A `cmd` may also be given the command word itself, as the programs of 95_test_vectors.md do for reserved words. -/
inductive AsmLine where
  | rd (off : BitVec 12)
  | wr (off : BitVec 12) (v : Word)
  | cmd (i : Instr)
  | cmdWord (w : Word)
  | wait
  | setsecret (s : List Byte)
  | settime (ms : BitVec 64)
  | setwindow (w : Word)
  | expect (off : BitVec 12) (v : Word)
  deriving DecidableEq, Repr

end Sys2Proof.Machine
end

