-- ==== Sys2Proof/WellFormed.lean ====
section
/-! DEFINITION. What is well formed: commands, instance parameters, registers of an instance, host actions and lines
of host assembly. Access.wf stands beside Access in Machine/Bus.lean, because the host port checks it. -/

namespace Sys2Proof

/-- A command has no field, so every command is well formed (30_encoding.md R80, R86). -/
def Instr.wf : Instr → Bool
  | .decode | .validate | .pack | .hmac | .trunc | .trem | .generate | .clear => true

/-- The legal instance parameters: 8 ≤ SECRET_CAP ≤ 256 (00_scope.md R6). -/
def Params.wf (p : Params) : Bool := decide (8 ≤ p.secretCap ∧ p.secretCap ≤ 256)

namespace Machine

/-- The registers an instance has: KEY and SECRET elements are below the capacities (10_state.md R23). -/
def Reg.wf (p : Params) : Reg → Bool
  | .key i => decide (i < p.keyCap)
  | .secret i => decide (i < p.secretCap)
  | _ => true

/-- The host actions that have a meaning: an access must be well formed. -/
def HostEvent.wf : HostEvent → Bool
  | .access a => a.wf
  | .idle | .reset | .wait => true

/-- The lines that name an aligned offset, and a secret that can be presented to the instance
(20_memory.md R62, 00_scope.md R5). -/
def AsmLine.wf (p : Params) : AsmLine → Bool
  | .rd off | .wr off _ | .expect off _ => decide (off.toNat % 4 = 0)
  | .setsecret s => decide (s.length ≤ p.secretCap)
  | .cmd _ | .cmdWord _ | .wait | .settime _ | .setwindow _ => true

end Machine

end Sys2Proof
end

