-- ==== Sys2Proof/Decode.lean ====
section
/-! DEFINITION. The command decoder, total on every 32-bit word and rejecting by name, and the encoder
(30_encoding.md R80–R83). -/

namespace Sys2Proof

/-- Why a word is no command: it is reserved (30_encoding.md R82). -/
inductive DecodeError where
  /-- Bits [31:4], which must be zero, are not (R80). -/
  | mbzSet (bits : BitVec 28)
  /-- OP is 0x0 or 0x9–0xF (R82). -/
  | reservedOp (op : BitVec 4)
  deriving DecidableEq, Repr

/-- OP, bits [3:0] of the command word (R80). -/
def opField (w : Word) : BitVec 4 := w.extractLsb' 0 4

/-- MBZ, bits [31:4] of the command word (R80). -/
def mbzField (w : Word) : BitVec 28 := w.extractLsb' 4 28

/-- The operation an OP number selects (R81). -/
def instrOfOp (op : BitVec 4) : Option Instr :=
  match op.toNat with
  | 1 => some .decode
  | 2 => some .validate
  | 3 => some .pack
  | 4 => some .hmac
  | 5 => some .trunc
  | 6 => some .trem
  | 7 => some .generate
  | 8 => some .clear
  | _ => none

/-- The command decoder: an exact match on all 32 bits (R81). -/
def decode (w : Word) : Except DecodeError Instr :=
  if mbzField w ≠ 0 then .error (.mbzSet (mbzField w))
  else match instrOfOp (opField w) with
    | some i => .ok i
    | none => .error (.reservedOp (opField w))

/-- The command word of a command (R81). -/
def encode : Instr → Word
  | .decode => 0x00000001
  | .validate => 0x00000002
  | .pack => 0x00000003
  | .hmac => 0x00000004
  | .trunc => 0x00000005
  | .trem => 0x00000006
  | .generate => 0x00000007
  | .clear => 0x00000008

/-- The command word whose low `nbits` bits are those of `w` and whose other bits are 0. A command word goes to CMD in
one 32-bit transaction (R80), so its bits are numbered as the opcode table numbers them. -/
def tableWord (nbits w : Nat) : Word := BitVec.ofNat 32 (w % 2 ^ nbits)

/-- The command the decoder reads from a row of spec/opcode_table.json whose bits are `w`; none where it refuses. -/
def decodeTableWord (nbits w : Nat) : Option Instr := (decode (tableWord nbits w)).toOption

end Sys2Proof
end

