-- ==== Sys2Proof/Machine/State.lean ====
section
/-! DEFINITION. The machine's state: every register of 10_state.md R23, the sequencer of R22, and the model's own
record of the agents outside the block. State.reset is the state of 70_reset_and_hazards.md R280. -/

namespace Sys2Proof.Machine

/-- The result codes operations produce (30_encoding.md R84). Codes 5–15 are reserved and no operation produces them,
so they are not representable (log entry 18). -/
inductive ResultCode where
  | ok
  | emptyKey
  | hashFailure
  | badWindow
  | badOpcode
  deriving DecidableEq, Repr

/-- What the sequencer runs: op(w) of the accepted word, RESERVED for a reserved word, which is not stored
(70_reset_and_hazards.md R285, 47_control.md R241). -/
inductive Op where
  | cmd (i : Instr)
  | reserved
  deriving DecidableEq, Repr

/-- SEQ (10_state.md R22). `left` counts the steps that still pass before the completion: LAT − 1 at acceptance
(70_reset_and_hazards.md R293, log entry 3). -/
inductive Seq where
  | idle
  | run (op : Op) (left : Nat)
  deriving DecidableEq, Repr

/-- The fields of STATUS (10_state.md R25). -/
structure Status where
  busy : Bool
  done : Bool
  result : ResultCode
  errBusy : Bool
  deriving DecidableEq, Repr

/-- What one host read returned: the offset it named and the 32-bit value. -/
structure BusRead where
  offset : BitVec 12
  value : Word
  deriving DecidableEq, Repr

/-- The registers of the map of 10_state.md R23, but for ID, which is a constant, CMD, which holds no value (R24), and
STATUS, which stands beside them. -/
structure Regs where
  /-- WINDOW (10_state.md R26). -/
  window : Word
  /-- TIME_LO (10_state.md R27). -/
  timeLo : Word
  /-- TIME_HI (10_state.md R27). -/
  timeHi : Word
  /-- SECRET_LEN (10_state.md R28). -/
  secretLen : Word
  /-- KEY_LEN (10_state.md R29). -/
  keyLen : Word
  /-- CAP_HINT[15:0] (10_state.md R30). -/
  capHint : BitVec 16
  /-- DEC_RESID.RCNT (10_state.md R31). -/
  rcnt : BitVec 4
  /-- DEC_RESID.RBITS (10_state.md R31). -/
  rbits : BitVec 7
  /-- DEC_NVALID[15:0] (10_state.md R32). -/
  nvalid : BitVec 16
  /-- VALID[0] (10_state.md R33). -/
  valid : Bool
  /-- EPOCH = EPOCH_HI × 2^32 + EPOCH_LO (10_state.md R34). -/
  epoch : BitVec 64
  /-- COUNTER = COUNTER_HI × 2^32 + COUNTER_LO (10_state.md R35). -/
  counter : BitVec 64
  /-- OFFSET[3:0] (10_state.md R36). -/
  offset : BitVec 4
  /-- BINARY[30:0] (10_state.md R36). -/
  binary : BitVec 31
  /-- OTP[19:0] (10_state.md R36). -/
  otp : BitVec 20
  /-- TREM (10_state.md R37). -/
  trem : Word
  /-- CODE[0..5] (10_state.md R38). -/
  code : Vector Byte 6
  /-- MSG[0..7] (10_state.md R39). -/
  msg : Vector Byte 8
  /-- DIGEST[0..19] (10_state.md R40). -/
  digest : Vector Byte 20
  /-- KEY[0..KEY_CAP−1], in index order (10_state.md R41). -/
  key : List Byte
  /-- SECRET[0..SECRET_CAP−1], in index order (10_state.md R42). -/
  secret : List Byte
  deriving DecidableEq, Repr

/-- What stands outside the block: the host, the platform, the external library, and the choices the spec leaves open
(00_scope.md R14). The model's own record; no host read shows it. -/
structure Outside where
  /-- The host's and the platform's actions to come, next first (log entry 1). -/
  inputs : List HostEvent
  /-- What the host has read, newest first (log entry 1). -/
  reads : List BusRead
  /-- LAT − 1 of the operations to be accepted, next first, as far as given (log entry 3). -/
  latencies : List Nat
  /-- The external library's answers to come, `true` for a digest, next first, as far as given (log entry 8). -/
  library : List Bool
  /-- How many free values have been drawn (log entry 6). -/
  draws : Nat
  deriving DecidableEq, Repr

/-- The state of one block and of what stands around it. -/
structure State where
  /-- The instance parameters (00_scope.md R6); no step writes them (10_state.md R20, log entry 7). -/
  params : Params
  /-- SEQ (10_state.md R22). -/
  seq : Seq
  /-- STATUS (10_state.md R25). -/
  status : Status
  /-- The other registers (10_state.md R23). -/
  regs : Regs
  /-- The host, the platform and the library. -/
  outside : Outside
  deriving DecidableEq, Repr

/-- The reasons a step ends in a fault. -/
inductive Fault where
  /-- Raised by a host access that is narrow or misaligned, which has no meaning and which a model refuses with a fault
  naming the access (20_memory.md R62). SAFE: the machine stops where the hardware does something unstated. -/
  | badAccess (a : Access)
  deriving DecidableEq, Repr

/-- The reasons a step is refused. -/
inductive Refusal where
  /-- Raised by an arm of exec whose instruction has no meaning yet; no arm uses it. SAFE: the machine stops. -/
  | notModelled (mnemonic : String)
  deriving DecidableEq, Repr

/-- The registers after the reset that drew number `d`, for the instance `p` (70_reset_and_hazards.md R280). SECRET and
KEY are free values; every other register has the value R280 lists. -/
def Regs.afterReset (p : Params) (d : Nat) : Regs where
  window := 30
  timeLo := 0
  timeHi := 0
  secretLen := 0
  keyLen := 0
  capHint := 0
  rcnt := 0
  rbits := 0
  nvalid := 0
  valid := false
  epoch := 0
  counter := 0
  offset := 0
  binary := 0
  otp := 0
  trem := 0
  code := Vector.replicate 6 0
  msg := Vector.replicate 8 0
  digest := Vector.replicate 20 0
  key := (List.range p.keyCap).map (Config.resetKey d)
  secret := (List.range p.secretCap).map (Config.resetSecret d)

/-- STATUS after reset: 0 (70_reset_and_hazards.md R280). -/
def Status.afterReset : Status := { busy := false, done := false, result := .ok, errBusy := false }

/-- The machine right after reset: the default instance of 00_scope.md R6, and nothing to come from outside
(70_reset_and_hazards.md R280). Reset drew number 0. -/
def State.reset : State where
  params := Params.standard
  seq := .idle
  status := Status.afterReset
  regs := Regs.afterReset Params.standard 0
  outside := { inputs := [], reads := [], latencies := [], library := [], draws := 1 }

end Sys2Proof.Machine
end

