-- ==== Sys2Proof/Machine/Flags.lean ====
section
/-! DEFINITION. STATUS: the result codes as numbers, the register's word, and every change of its fields
(10_state.md R25, R45; 30_encoding.md R84). -/

namespace Sys2Proof.Machine

/-- The 4-bit code of a result (30_encoding.md R84). -/
def ResultCode.bits : ResultCode → BitVec 4
  | .ok => 0
  | .emptyKey => 1
  | .hashFailure => 2
  | .badWindow => 3
  | .badOpcode => 4

/-- STATUS as the host reads it: BUSY in bit 0, DONE in bit 1, RESULT in [7:4], ERR_BUSY in bit 8, all other bits 0
(10_state.md R25). -/
def Status.word (t : Status) : Word :=
  (0 : BitVec 23) ++ BitVec.ofBool t.errBusy ++ t.result.bits ++ (0 : BitVec 2) ++ BitVec.ofBool t.done
    ++ BitVec.ofBool t.busy

/-- STATUS when a command is accepted: BUSY ← 1, DONE ← 0, RESULT and ERR_BUSY unchanged
(70_reset_and_hazards.md R285). -/
def Status.accepted (t : Status) : Status := { t with busy := true, done := false }

/-- STATUS at a completion with result `r`: RESULT ← r, BUSY ← 0, DONE ← 1 (70_reset_and_hazards.md R286). -/
def Status.completed (t : Status) (r : ResultCode) : Status := { t with result := r, busy := false, done := true }

/-- STATUS when a write is dropped: ERR_BUSY ← 1 (70_reset_and_hazards.md R291). -/
def Status.overrun (t : Status) : Status := { t with errBusy := true }

/-- STATUS.ERR_BUSY ← 0 (47_control.md R240). -/
def Status.clearOverrun (t : Status) : Status := { t with errBusy := false }

end Sys2Proof.Machine
end

