-- ==== Sys2Proof/Machine/Bits.lean ====
section
/-! DEFINITION. The bit and byte-order helpers of 00_scope.md R8 and R9. -/

namespace Sys2Proof.Machine

/-- `rotl32(x, n)` for 0 < n < 32 (00_scope.md R8). -/
def rotl32 (x : Word) (n : Nat) : Word := (x <<< n) ||| (x >>> (32 - n))

/-- `bytes_be(v, n)`: the n-byte big-endian spelling of v, element 0 the most significant byte (00_scope.md R9). -/
def bytesBe : (v n : Nat) → List Byte
  | _, 0 => []
  | v, n + 1 => BitVec.ofNat 8 (v / 256 ^ n) :: bytesBe v n

/-- Element `i` of a byte sequence; past the end, 0. -/
def byteAt (s : List Byte) (i : Nat) : Byte := s.getD i 0

/-- Four bytes as a 32-bit word, the first the most significant (43_hmac_sha1.md R164). -/
def wordOfBytes (s : List Byte) : Word := byteAt s 0 ++ byteAt s 1 ++ byteAt s 2 ++ byteAt s 3

/-- The low half of a 64-bit value, for a _LO register (20_memory.md R68). -/
def loWord (v : BitVec 64) : Word := v.extractLsb' 0 32

/-- The high half of a 64-bit value, for a _HI register (20_memory.md R68). -/
def hiWord (v : BitVec 64) : Word := v.extractLsb' 32 32

/-- A buffer whose first elements are replaced by `out`, its length kept: what DECODE does to KEY (10_state.md R41). -/
def overwriteFront : (buf out : List Byte) → List Byte
  | [], _ => []
  | buf, [] => buf
  | _ :: buf, o :: out => o :: overwriteFront buf out

end Sys2Proof.Machine
end

