-- ==== Sys2Proof/Machine/Operands.lean ====
section
/-! DEFINITION. The operands of the commands, each read from its fixed registers (30_encoding.md R86), and what a host
write stores into a register that keeps only part of its data. -/

namespace Sys2Proof.Machine

/-- The secret string SECRET[0 .. SECRET_LEN−1] (10_state.md R28). -/
def secretString (r : Regs) : List Byte := r.secret.take r.secretLen.toNat

/-- The key KEY[0 .. KEY_LEN−1] (10_state.md R29). -/
def keyBytes (r : Regs) : List Byte := r.key.take r.keyLen.toNat

/-- The message MSG[0 .. 7] (10_state.md R39). -/
def msgBytes (r : Regs) : List Byte := r.msg.toList

/-- DIGEST[0 .. 19] as a byte sequence (10_state.md R40). -/
def digestBytes (r : Regs) : List Byte := r.digest.toList

/-- TIME_MS = TIME_HI × 2^32 + TIME_LO (10_state.md R27). -/
def timeMs (r : Regs) : BitVec 64 := r.timeHi ++ r.timeLo

/-- What a write of `v` stores into a length register of capacity `cap`: min(v, cap) (10_state.md R28, R29). -/
def clampLen (cap : Nat) (v : Word) : Word := BitVec.ofNat 32 (min v.toNat cap)

/-- What a write of `v` stores into a byte register: bits [7:0] (10_state.md R43). -/
def lowByte (v : Word) : Byte := v.extractLsb' 0 8

end Sys2Proof.Machine
end

