-- ==== Sys2Proof/Machine/Ops.lean ====
section
/-! DEFINITION. The operations every command and every host transaction is written with: draws, acceptance, completion,
the exceptional outcome, the stages of an operation, reads and writes of the register map, and reset. -/

namespace Sys2Proof.Machine

/-! ### Draws: the choices the spec leaves open -/

/-- LAT − 1 of the operation being accepted: the next one given, a free value where none is given
(70_reset_and_hazards.md R293, log entry 3). -/
def drawLatency (o : Outside) : Nat × Outside :=
  match o.latencies with
  | n :: rest => (n, { o with latencies := rest })
  | [] => (Config.latency o.draws, { o with draws := o.draws + 1 })

/-- Whether the external library answers this request with a digest: the next answer given, a free value where none is
given (43_hmac_sha1.md R170, log entry 8). -/
def drawLibrary (o : Outside) : Bool × Outside :=
  match o.library with
  | b :: rest => (b, { o with library := rest })
  | [] => (Config.libraryAnswers o.draws, { o with draws := o.draws + 1 })

/-- The value of a read whose result the spec leaves open: a fresh free value (70_reset_and_hazards.md R290,
log entry 5). -/
def drawRead (o : Outside) : Word × Outside := (Config.busyRead o.draws, { o with draws := o.draws + 1 })

/-! ### The command protocol -/

/-- op(w): the command of the word, RESERVED where it has none (70_reset_and_hazards.md R285, 30_encoding.md R82). -/
def opOf (w : Word) : Op :=
  match decode w with
  | .ok i => .cmd i
  | .error _ => .reserved

/-- Acceptance of the command word `w` (70_reset_and_hazards.md R285). -/
def accept (w : Word) (s : State) : State :=
  let (n, o) := drawLatency s.outside
  { s with seq := .run (opOf w) n, status := s.status.accepted, outside := o }

/-- Completion with result `r` of an operation whose register writes have taken effect in `s`
(70_reset_and_hazards.md R286). -/
def complete (r : ResultCode) (s : State) : State :=
  { s with seq := .idle, status := s.status.completed r }

/-- THE EXCEPTIONAL OUTCOME: `raise r`. It ends the running operation through the completion, with r in STATUS.RESULT;
nothing is saved, no mode changes and control goes to no vector, so there is no return from it either
(60_exceptions.md R250, R255, R256; 00_scope.md R10). The state `s` holds what was committed before the raise. -/
def raise (r : ResultCode) (s : State) : Host.Outcome State Fault Refusal := .next (complete r s)

/-- How far an operation has come after one of its stages: it goes on in a state, or it has raised a result
(45_generate.md R210). -/
inductive Staged where
  | goesOn (s : State)
  | raised (r : ResultCode) (s : State)
  deriving DecidableEq, Repr

/-- The next stage, which runs only if no earlier one has raised (45_generate.md R211). -/
def Staged.andThen (x : Staged) (stage : State → Staged) : Staged :=
  match x with
  | .goesOn s => stage s
  | .raised r s => .raised r s

/-- The end of an operation after its last stage: `complete(OK)`, or the raise (00_scope.md R10). -/
def Staged.finish : Staged → Host.Outcome State Fault Refusal
  | .goesOn s => .next (complete .ok s)
  | .raised r s => raise r s

/-! ### The register map -/

/-- The 32-bit value of a register, by its rule of 10_state.md: unused high bits read 0 (R43 for byte registers). -/
def readReg (s : State) : Reg → Word
  | .id => 0x544F5450
  | .cmd => 0
  | .status => s.status.word
  | .window => s.regs.window
  | .timeLo => s.regs.timeLo
  | .timeHi => s.regs.timeHi
  | .secretLen => s.regs.secretLen
  | .keyLen => s.regs.keyLen
  | .capHint => s.regs.capHint.setWidth 32
  | .decResid => (s.regs.rbits.setWidth 32 <<< 8) ||| s.regs.rcnt.setWidth 32
  | .decNvalid => s.regs.nvalid.setWidth 32
  | .valid => (BitVec.ofBool s.regs.valid).setWidth 32
  | .epochLo => loWord s.regs.epoch
  | .epochHi => hiWord s.regs.epoch
  | .counterLo => loWord s.regs.counter
  | .counterHi => hiWord s.regs.counter
  | .offset => s.regs.offset.setWidth 32
  | .binary => s.regs.binary.setWidth 32
  | .otp => s.regs.otp.setWidth 32
  | .trem => s.regs.trem
  | .code i => (s.regs.code.get i).setWidth 32
  | .msg i => (s.regs.msg.get i).setWidth 32
  | .digest i => (s.regs.digest.get i).setWidth 32
  | .key i => (byteAt s.regs.key i).setWidth 32
  | .secret i => (byteAt s.regs.secret i).setWidth 32

/-- What a host write of `v` stores into a register: a read-write register takes its data (10_state.md R26–R29,
R39–R43), a read-only register ignores it (R44), and CMD holds no value (R24). -/
def storeReg (p : Params) (r : Regs) (name : Reg) (v : Word) : Regs :=
  match name with
  | .window => { r with window := v }
  | .timeLo => { r with timeLo := v }
  | .timeHi => { r with timeHi := v }
  | .secretLen => { r with secretLen := clampLen p.secretCap v }
  | .keyLen => { r with keyLen := clampLen p.keyCap v }
  | .msg i => { r with msg := r.msg.set i.val (lowByte v) }
  | .digest i => { r with digest := r.digest.set i.val (lowByte v) }
  | .key i => { r with key := r.key.set i (lowByte v) }
  | .secret i => { r with secret := r.secret.set i (lowByte v) }
  | .id | .cmd | .status | .capHint | .decResid | .decNvalid | .valid | .epochLo | .epochHi => r
  | .counterLo | .counterHi | .offset | .binary | .otp | .trem | .code _ => r

/-- The effect of a host write of `v` to a register while BUSY = 0: a write to CMD submits a command (10_state.md R24),
any other write stores or ignores its data (20_memory.md R65). -/
def writeReg (s : State) (name : Reg) (v : Word) : State :=
  match name with
  | .cmd => accept v s
  | _ => { s with regs := storeReg s.params s.regs name v }

/-- The value at a byte offset of the window; an unmapped offset reads 0 (20_memory.md R64). -/
def readWindow (s : State) (off : Nat) : Word :=
  match regAt s.params off with
  | some r => readReg s r
  | none => 0

/-- A host write at a byte offset while BUSY = 0; an unmapped offset ignores it (20_memory.md R64). -/
def writeWindow (s : State) (off : Nat) (v : Word) : State :=
  match regAt s.params off with
  | some r => writeReg s r v
  | none => s

/-! ### Reset -/

/-- Reset applied to a machine in any state: a running operation is abandoned and every register takes its reset value,
SECRET and KEY fresh free values (70_reset_and_hazards.md R280, R281). What is outside the block is kept
(log entry 11). -/
def resetBlock (s : State) : State :=
  { s with
    seq := .idle
    status := Status.afterReset
    regs := Regs.afterReset s.params s.outside.draws
    outside := { s.outside with draws := s.outside.draws + 1 } }

end Sys2Proof.Machine
end

