-- ==== Sys2Proof/Machine/Control.lean ====
section
/-! DEFINITION. The control operations: CLEAR and the reserved command words (47_control.md). -/

namespace Sys2Proof.Machine

/-- CLEAR: ERR_BUSY ← 0, and nothing else (47_control.md R240). -/
def execClear (s : State) : Host.Outcome State Fault Refusal :=
  (Staged.goesOn { s with status := s.status.clearOverrun }).finish

/-- A reserved command word: raise BAD_OPCODE, changing nothing else (47_control.md R241). -/
def execReserved (s : State) : Host.Outcome State Fault Refusal := raise .badOpcode s

end Sys2Proof.Machine
end

