-- ==== Sys2Proof/Machine/Base32.lean ====
section
/-! DEFINITION. The character classes and the Base32 decoder unit: the padding-stripping machine and the shift/mask
emitter fed the same characters in one pass (40_base32_decoder.md R102, R104, R109). -/

namespace Sys2Proof.Machine

/-- Whitespace: 0x09–0x0D and 0x20 (00_scope.md R12). -/
def isSpace (c : Byte) : Bool := (0x09 ≤ c && c ≤ 0x0D) || c == 0x20

/-- Padding: `=` (00_scope.md R12). -/
def isPad (c : Byte) : Bool := c == 0x3D

/-- `upper(c)`: the ASCII uppercase of a byte (30_encoding.md R90). -/
def upper (c : Byte) : Byte := if 0x61 ≤ c ∧ c ≤ 0x7A then c - 0x20 else c

/-- `b32val(c)`: the 5-bit value of an alphabet byte, none for any other byte (30_encoding.md R89). -/
def b32val (c : Byte) : Option (BitVec 5) :=
  if 0x41 ≤ c ∧ c ≤ 0x5A then some ((c - 0x41).setWidth 5)
  else if 0x32 ≤ c ∧ c ≤ 0x37 then some ((c - 0x32 + 26).setWidth 5)
  else none

/-- The phase of the padding-stripping machine (40_base32_decoder.md R102). -/
inductive PadPhase where
  | data
  | pad
  deriving DecidableEq, Repr

/-- The padding-stripping machine: its phase, the kept bytes L and the `=` bytes E of the current trailing run
(40_base32_decoder.md R102). -/
structure PadCounter where
  phase : PadPhase
  kept : Nat
  trailing : Nat
  deriving DecidableEq, Repr

/-- The shift/mask emitter: ACC, CNT, the bytes emitted so far in order, and the count k of alphabet characters
(40_base32_decoder.md R104). -/
structure Emitter where
  acc : BitVec 12
  cnt : Nat
  out : List Byte
  nvalid : Nat
  deriving DecidableEq, Repr

/-- The hidden state of the decoder while it runs (10_state.md R46). -/
structure Decoder where
  pads : PadCounter
  emit : Emitter
  deriving DecidableEq, Repr

/-- The padding-stripping machine at the start (40_base32_decoder.md R102). -/
def padStart : PadCounter := { phase := .data, kept := 0, trailing := 0 }

/-- The emitter at the start (40_base32_decoder.md R104). -/
def emitStart : Emitter := { acc := 0, cnt := 0, out := [], nvalid := 0 }

/-- The decoder at the start. -/
def decoderStart : Decoder := { pads := padStart, emit := emitStart }

/-- One uppercased byte through the padding-stripping machine: the table of 40_base32_decoder.md R102. -/
def padStep (p : PadCounter) (u : Byte) : PadCounter :=
  if isSpace u then p
  else if isPad u then { p with trailing := p.trailing + 1, phase := .pad }
  else { phase := .data, kept := p.kept + p.trailing + 1, trailing := 0 }

/-- One alphabet value through the emitter: steps 3 and 4 of 40_base32_decoder.md R104. -/
def emitValue (e : Emitter) (v : BitVec 5) : Emitter :=
  let acc := (e.acc <<< 5) ||| v.setWidth 12
  let cnt := e.cnt + 5
  if 8 ≤ cnt then
    { acc := acc, cnt := cnt - 8, out := e.out ++ [(acc >>> (cnt - 8)).setWidth 8], nvalid := e.nvalid + 1 }
  else { acc := acc, cnt := cnt, out := e.out, nvalid := e.nvalid + 1 }

/-- One uppercased byte through the emitter: a byte outside the alphabet is skipped (40_base32_decoder.md R104). -/
def emitStep (e : Emitter) (u : Byte) : Emitter :=
  match b32val u with
  | some v => emitValue e v
  | none => e

/-- One character of the secret string through the decoder (40_base32_decoder.md R109). -/
def decoderStep (d : Decoder) (c : Byte) : Decoder :=
  { pads := padStep d.pads (upper c), emit := emitStep d.emit (upper c) }

/-- `b32decode(s)`: the decoder run over a byte string (40_base32_decoder.md R100). -/
def b32decode (s : List Byte) : Decoder := s.foldl decoderStep decoderStart

/-- CAP_HINT: floor(N × 5 / 8), where N = L at the end of the string (40_base32_decoder.md R102, R108). -/
def Decoder.capHint (d : Decoder) : Nat := d.pads.kept * 5 / 8

/-- RBITS: the low CNT bits of ACC, the residual bits (40_base32_decoder.md R107). -/
def Decoder.residual (d : Decoder) : Nat := d.emit.acc.toNat % 2 ^ d.emit.cnt

end Sys2Proof.Machine
end

