-- ==== Sys2Proof/Machine/Decoder.lean ====
section
/-! DEFINITION. The DECODE operation (40_base32_decoder.md R109). -/

namespace Sys2Proof.Machine

/-- The registers a decode writes: KEY[0 .. n−1], KEY_LEN, CAP_HINT, DEC_RESID, DEC_NVALID (40_base32_decoder.md R109).
KEY[n ..] keeps its bytes (10_state.md R41). -/
def commitDecode (d : Decoder) (r : Regs) : Regs :=
  { r with
    key := overwriteFront r.key d.emit.out
    keyLen := BitVec.ofNat 32 d.emit.out.length
    capHint := BitVec.ofNat 16 d.capHint
    rcnt := BitVec.ofNat 4 d.emit.cnt
    rbits := BitVec.ofNat 7 d.residual
    nvalid := BitVec.ofNat 16 d.emit.nvalid }

/-- The decode stage: decode the secret string and commit the outputs; it never raises (40_base32_decoder.md R112). -/
def decodeStage (s : State) : Staged :=
  .goesOn { s with regs := commitDecode (b32decode (secretString s.regs)) s.regs }

/-- DECODE (40_base32_decoder.md R109). -/
def execDecode (s : State) : Host.Outcome State Fault Refusal := (decodeStage s).finish

end Sys2Proof.Machine
end

