-- ==== Sys2Proof/Machine/Sha1.lean ====
section
/-! DEFINITION. SHA-1 and HMAC-SHA1 (43_hmac_sha1.md R161–R167). The spec supplies these rules from general knowledge
(93_implementation_defined.md G1–G7, log entry 14). -/

namespace Sys2Proof.Machine

/-- The chaining values H0–H4, and the working variables a–e (43_hmac_sha1.md R163, R166). -/
structure ShaVars where
  a : Word
  b : Word
  c : Word
  d : Word
  e : Word
  deriving DecidableEq, Repr

/-- The initial chaining values (43_hmac_sha1.md R163). -/
def shaInit : ShaVars :=
  { a := 0x67452301, b := 0xEFCDAB89, c := 0x98BADCFE, d := 0x10325476, e := 0xC3D2E1F0 }

/-- The count z of zero bytes that pad a message of `len` bytes: the least with (len + 1 + z) mod 64 = 56
(43_hmac_sha1.md R161). -/
def padZeros (len : Nat) : Nat := (119 - len % 64) % 64

/-- The padded message (43_hmac_sha1.md R161). -/
def shaPad (m : List Byte) : List Byte :=
  m ++ [0x80] ++ List.replicate (padZeros m.length) 0 ++ bytesBe (8 * m.length) 8

/-- The first `n` pieces of `size` bytes each, in order. -/
def pieces (size : Nat) : (n : Nat) → List Byte → List (List Byte)
  | 0, _ => []
  | n + 1, p => p.take size :: pieces size n (p.drop size)

/-- `n` further words of the message schedule put before the words `ws`, which stand newest first: W[t] is
rotl32(W[t−3] ^ W[t−8] ^ W[t−14] ^ W[t−16], 1) (43_hmac_sha1.md R164). -/
def extendSchedule : (n : Nat) → (ws : List Word) → List Word
  | 0, ws => ws
  | n + 1, ws =>
    extendSchedule n (rotl32 (ws.getD 2 0 ^^^ ws.getD 7 0 ^^^ ws.getD 13 0 ^^^ ws.getD 15 0) 1 :: ws)

/-- The message schedule W[0..79] of one 64-byte block (43_hmac_sha1.md R164). -/
def schedule (block : List Byte) : List Word :=
  (extendSchedule 64 ((pieces 4 16 block).map wordOfBytes).reverse).reverse

/-- f_t(b, c, d) (43_hmac_sha1.md R165). -/
def roundFun (t : Nat) (b c d : Word) : Word :=
  if t < 20 then (b &&& c) ||| (~~~b &&& d)
  else if t < 40 then b ^^^ c ^^^ d
  else if t < 60 then (b &&& c) ||| (b &&& d) ||| (c &&& d)
  else b ^^^ c ^^^ d

/-- K_t (43_hmac_sha1.md R165). -/
def roundConst (t : Nat) : Word :=
  if t < 20 then 0x5A827999
  else if t < 40 then 0x6ED9EBA1
  else if t < 60 then 0x8F1BBCDC
  else 0xCA62C1D6

/-- Round `t` of the compression, with schedule word `w` (43_hmac_sha1.md R166). -/
def shaRound (t : Nat) (w : Word) (v : ShaVars) : ShaVars :=
  { a := rotl32 v.a 5 + roundFun t v.b v.c v.d + v.e + roundConst t + w
    b := v.a
    c := rotl32 v.b 30
    d := v.c
    e := v.d }

/-- The rounds from `t` on, one for each schedule word (43_hmac_sha1.md R166). -/
def shaRounds : (t : Nat) → List Word → ShaVars → ShaVars
  | _, [], v => v
  | t, w :: ws, v => shaRounds (t + 1) ws (shaRound t w v)

/-- The compression of one block (43_hmac_sha1.md R166). -/
def compress (h : ShaVars) (block : List Byte) : ShaVars :=
  let v := shaRounds 0 (schedule block) h
  { a := h.a + v.a, b := h.b + v.b, c := h.c + v.c, d := h.d + v.d, e := h.e + v.e }

/-- The 20 output bytes: H0 first, each word big-endian (43_hmac_sha1.md R162). -/
def digestOf (h : ShaVars) : List Byte :=
  bytesBe h.a.toNat 4 ++ bytesBe h.b.toNat 4 ++ bytesBe h.c.toNat 4 ++ bytesBe h.d.toNat 4 ++ bytesBe h.e.toNat 4

/-- The chaining values after every 64-byte block of a padded message (43_hmac_sha1.md R166). -/
def hashBlocks (padded : List Byte) : ShaVars := (pieces 64 (padded.length / 64) padded).foldl compress shaInit

/-- `SHA1(m)` (43_hmac_sha1.md R161, R162, R166). -/
def sha1 (m : List Byte) : List Byte := digestOf (hashBlocks (shaPad m))

/-- K0: the key, hashed first if longer than 64 bytes, zero-padded to 64 bytes (43_hmac_sha1.md R167). -/
def hmacKeyBlock (key : List Byte) : List Byte :=
  let k := if 64 < key.length then sha1 key else key
  k ++ List.replicate (64 - k.length) 0

/-- A key block XORed with a pad byte (43_hmac_sha1.md R167). -/
def xorPad (pad : Byte) (block : List Byte) : List Byte := block.map (· ^^^ pad)

/-- `HMAC_SHA1(K, M)` (43_hmac_sha1.md R167). -/
def hmacSha1 (key msg : List Byte) : List Byte :=
  let k0 := hmacKeyBlock key
  sha1 (xorPad 0x5C k0 ++ sha1 (xorPad 0x36 k0 ++ msg))

end Sys2Proof.Machine
end

