-- ==== Sys2Proof/Machine/Hmac.lean ====
section
/-! DEFINITION. The HMAC-SHA1 unit with its backend, and the HMAC operation (43_hmac_sha1.md R160, R169–R172). -/

namespace Sys2Proof.Machine

/-- The registers a digest writes: DIGEST[i] ← D[i] for i in 0 .. 19 (43_hmac_sha1.md R160, R171). -/
def commitDigest (d : List Byte) (r : Regs) : Regs := { r with digest := Vector.ofFn fun i => byteAt d i.val }

/-- The digest of the key and the message as they stand, committed (43_hmac_sha1.md R160, R167). -/
def digestCommitted (s : State) : State :=
  { s with regs := commitDigest (hmacSha1 (keyBytes s.regs) (msgBytes s.regs)) s.regs }

/-- The external library's turn: the correct digest, or HASH_FAILURE with DIGEST not written
(43_hmac_sha1.md R170, log entry 8). -/
def externalDigest (s : State) : Staged :=
  match drawLibrary s.outside with
  | (true, o) => .goesOn (digestCommitted { s with outside := o })
  | (false, o) => .raised .hashFailure { s with outside := o }

/-- The digest stage of a non-empty key (43_hmac_sha1.md R169, R170). -/
def digestStage (s : State) : Staged :=
  match s.params.backend with
  | .internal => .goesOn (digestCommitted s)
  | .external => externalDigest s

/-- The test that there is a key to hash: EMPTY_KEY if KEY_LEN = 0 (43_hmac_sha1.md R172, 45_generate.md R210). -/
def keyStage (s : State) : Staged := if s.regs.keyLen = 0 then .raised .emptyKey s else .goesOn s

/-- HMAC (43_hmac_sha1.md R171). -/
def execHmac (s : State) : Host.Outcome State Fault Refusal := ((keyStage s).andThen digestStage).finish

end Sys2Proof.Machine
end

