-- ==== Sys2Proof/Machine/Packer.lean ====
section
/-! DEFINITION. The time-step counter packer and the PACK operation (42_counter_packer.md). -/

namespace Sys2Proof.Machine

/-- EPOCH of a time in milliseconds: seconds rounded to nearest, a tie up (42_counter_packer.md R141). -/
def epochOf (ms : Nat) : Nat := ms / 1000 + if 500 ≤ ms % 1000 then 1 else 0

/-- The 8-byte message of a counter: MSG[i] = COUNTER[63−8i : 56−8i] (42_counter_packer.md R145). -/
def messageOf (c : BitVec 64) : Vector Byte 8 := Vector.ofFn fun i => c.extractLsb' (56 - 8 * i.val) 8

/-- The registers a pack writes for WINDOW = `w` ≥ 1: EPOCH, COUNTER and MSG (42_counter_packer.md R144). -/
def commitPack (w : Nat) (r : Regs) : Regs :=
  let e := epochOf (timeMs r).toNat
  let c := BitVec.ofNat 64 (e / w)
  { r with epoch := BitVec.ofNat 64 e, counter := c, msg := messageOf c }

/-- The packing stage: BAD_WINDOW if WINDOW = 0, with nothing written (42_counter_packer.md R143, R144). -/
def packStage (s : State) : Staged :=
  if s.regs.window = 0 then .raised .badWindow s
  else .goesOn { s with regs := commitPack s.regs.window.toNat s.regs }

/-- PACK (42_counter_packer.md R144). -/
def execPack (s : State) : Host.Outcome State Fault Refusal := (packStage s).finish

end Sys2Proof.Machine
end

