-- ==== Sys2Proof/Machine/Trunc.lean ====
section
/-! DEFINITION. The dynamic truncator, the code formatter and the TRUNC operation (44_truncation.md). -/

namespace Sys2Proof.Machine

/-- offset = D[19] & 0x0F (44_truncation.md R190). -/
def truncOffsetOf (d : List Byte) : BitVec 4 := (byteAt d 19).setWidth 4

/-- binary: the bytes D[o .. o+3] combined big-endian, the top bit of the first masked off (44_truncation.md R190). -/
def truncBinary (d : List Byte) (o : Nat) : BitVec 31 :=
  (byteAt d o).setWidth 7 ++ byteAt d (o + 1) ++ byteAt d (o + 2) ++ byteAt d (o + 3)

/-- otp = binary mod 1 000 000 (44_truncation.md R192). -/
def otpOf (b : BitVec 31) : Nat := b.toNat % 1000000

/-- The code of an otp: CODE[i] = 0x30 + ((otp div 10^(5−i)) mod 10) (44_truncation.md R193). -/
def codeOf (otp : Nat) : Vector Byte 6 := Vector.ofFn fun i => BitVec.ofNat 8 (0x30 + otp / 10 ^ (5 - i.val) % 10)

/-- The registers a truncation writes: OFFSET, BINARY, OTP, CODE (44_truncation.md R191). -/
def commitTrunc (r : Regs) : Regs :=
  let o := truncOffsetOf (digestBytes r)
  let b := truncBinary (digestBytes r) o.toNat
  { r with offset := o, binary := b, otp := BitVec.ofNat 20 (otpOf b), code := codeOf (otpOf b) }

/-- The truncation stage; it never raises (44_truncation.md R194). -/
def truncStage (s : State) : Staged := .goesOn { s with regs := commitTrunc s.regs }

/-- TRUNC (44_truncation.md R194). -/
def execTrunc (s : State) : Host.Outcome State Fault Refusal := (truncStage s).finish

end Sys2Proof.Machine
end

