-- ==== Sys2Proof/Machine/Generate.lean ====
section
/-! DEFINITION. The GENERATE operation: decode, pack, hash and truncate in SA2FA's step order (45_generate.md). -/

namespace Sys2Proof.Machine

/-- The stages of GENERATE, each committing its outputs when it succeeds and none running after a raise: EMPTY_KEY
before BAD_WINDOW before HASH_FAILURE (45_generate.md R210, R211). -/
def generateStages (s : State) : Staged :=
  ((((decodeStage s).andThen keyStage).andThen packStage).andThen digestStage).andThen truncStage

/-- GENERATE (45_generate.md R210). -/
def execGenerate (s : State) : Host.Outcome State Fault Refusal := (generateStages s).finish

end Sys2Proof.Machine
end

