-- ==== Sys2Proof/Machine/TimeRemaining.lean ====
section
/-! DEFINITION. The time-remaining calculator and the TREM operation (46_time_remaining.md). -/

namespace Sys2Proof.Machine

/-- The seconds remaining in the window: WINDOW − (EPOCH mod WINDOW) (46_time_remaining.md R230). -/
def timeRemaining (w e : Nat) : Nat := w - e % w

/-- The registers a TREM writes for WINDOW = `w` ≥ 1: EPOCH and TREM (46_time_remaining.md R232). -/
def commitTrem (w : Nat) (r : Regs) : Regs :=
  let e := epochOf (timeMs r).toNat
  { r with epoch := BitVec.ofNat 64 e, trem := BitVec.ofNat 32 (timeRemaining w e) }

/-- The time-remaining stage: BAD_WINDOW if WINDOW = 0, with nothing written (46_time_remaining.md R231, R232). -/
def tremStage (s : State) : Staged :=
  if s.regs.window = 0 then .raised .badWindow s
  else .goesOn { s with regs := commitTrem s.regs.window.toNat s.regs }

/-- TREM (46_time_remaining.md R232). -/
def execTrem (s : State) : Host.Outcome State Fault Refusal := (tremStage s).finish

end Sys2Proof.Machine
end

