-- ==== Sys2Proof/Machine/Validate.lean ====
section
/-! DEFINITION. The validation predicate's four-state machine and the VALIDATE operation (41_validation.md). -/

namespace Sys2Proof.Machine

/-- The states of the validator (41_validation.md R131). -/
inductive Validator where
  | start
  | alpha
  | pads
  | reject
  deriving DecidableEq, Repr

/-- One uppercased byte through the validator: the table of 41_validation.md R131. -/
def validatorStep (st : Validator) (u : Byte) : Validator :=
  if isSpace u then st
  else if (b32val u).isSome then
    match st with
    | .start | .alpha => .alpha
    | .pads | .reject => .reject
  else if isPad u then
    match st with
    | .alpha | .pads => .pads
    | .start | .reject => .reject
  else .reject

/-- The validator run over a byte string (41_validation.md R131, R132). -/
def runValidator (s : List Byte) : Validator := s.foldl (fun st c => validatorStep st (upper c)) .start

/-- Whether the validator accepts: it ends in ALPHA or PADS (41_validation.md R131). -/
def Validator.accepts : Validator → Bool
  | .alpha | .pads => true
  | .start | .reject => false

/-- The validation stage: VALID ← the verdict on the secret string; it never raises (41_validation.md R132). -/
def validateStage (s : State) : Staged :=
  .goesOn { s with regs := { s.regs with valid := (runValidator (secretString s.regs)).accepts } }

/-- VALIDATE (41_validation.md R132). -/
def execValidate (s : State) : Host.Outcome State Fault Refusal := (validateStage s).finish

end Sys2Proof.Machine
end

