-- ==== Sys2Proof/Machine/Dispatch.lean ====
section
/-! DEFINITION. exec: the meaning of each command, from its acceptance to its completion. -/

namespace Sys2Proof.Machine

def exec (i : Instr) (s : State) : Host.Outcome State Fault Refusal :=
  match i with
  | .decode => Sys2Proof.Machine.execDecode s
  | .validate => Sys2Proof.Machine.execValidate s
  | .pack => Sys2Proof.Machine.execPack s
  | .hmac => Sys2Proof.Machine.execHmac s
  | .trunc => Sys2Proof.Machine.execTrunc s
  | .trem => Sys2Proof.Machine.execTrem s
  | .generate => Sys2Proof.Machine.execGenerate s
  | .clear => Sys2Proof.Machine.execClear s

end Sys2Proof.Machine
end

