-- ==== Sys2Proof/Machine/HostPort.lean ====
section
/-! DEFINITION. The host port: one host transaction, the `wait` loop, reset, and the turn of the agents outside the
block (20_memory.md, 70_reset_and_hazards.md sections 3 and 4). -/

namespace Sys2Proof.Machine

/-- The value a host read of a byte offset returns, and what it leaves outside the block. While BUSY = 0 it is the register's
value, and nothing changes (20_memory.md R65, R70). While BUSY = 1, ID and STATUS read exactly, every other register
reads a free value (70_reset_and_hazards.md R290), and an unmapped offset, which is no register, reads 0
(20_memory.md R64, log entry 10). -/
def readValue (s : State) (off : Nat) : Word × Outside :=
  if s.status.busy then
    match regAt s.params off with
    | some .id => (readReg s .id, s.outside)
    | some .status => (readReg s .status, s.outside)
    | some _ => drawRead s.outside
    | none => (0, s.outside)
  else (readWindow s off, s.outside)

/-- One host read: the value goes to the host (20_memory.md R62). -/
def hostRead (s : State) (off : BitVec 12) : State :=
  let (v, o) := readValue s off.toNat
  { s with outside := { o with reads := { offset := off, value := v } :: o.reads } }

/-- One host write: performed while BUSY = 0, dropped with ERR_BUSY ← 1 while BUSY = 1, wherever it goes
(70_reset_and_hazards.md R291). -/
def hostWrite (s : State) (off : BitVec 12) (v : Word) : State :=
  if s.status.busy then { s with status := s.status.overrun } else writeWindow s off.toNat v

/-- One host transaction. A narrow or misaligned one has no meaning: a fault that names it, busy or not
(20_memory.md R62, 60_exceptions.md R265). -/
def hostAccess (a : Access) (s : State) : Host.Outcome State Fault Refusal :=
  if a.wf then
    match a.dir with
    | .read => .next (hostRead s a.offset)
    | .write => .next (hostWrite s a.offset a.data)
  else .fault (.badAccess a)

/-- The machine with the host's next actions set to `rest`. -/
def withInputs (s : State) (rest : List HostEvent) : State := { s with outside := { s.outside with inputs := rest } }

/-- One round of `wait`: read STATUS; the loop ends when bit 0 of the value read is 0 (30_encoding.md R94). `rest` are
the actions after the loop. -/
def pollStatus (rest : List HostEvent) (s : State) : State :=
  if s.status.busy then hostRead s 0x008 else withInputs (hostRead s 0x008) rest

/-- The turn of the host and the platform: their next action, if there is one. -/
def hostTurn (s : State) : Host.Outcome State Fault Refusal :=
  match s.outside.inputs with
  | [] => .next s
  | .idle :: rest => .next (withInputs s rest)
  | .reset :: rest => .next (resetBlock (withInputs s rest))
  | .access a :: rest => hostAccess a (withInputs s rest)
  | .wait :: rest => .next (pollStatus rest s)

/-- Whether the platform applies reset now. -/
def resetPending (s : State) : Bool :=
  match s.outside.inputs with
  | .reset :: _ => true
  | _ => false

/-- The machine with an action-free step put before a pending reset, so that the sequencer's turn comes first. -/
def deferReset (s : State) : State := if resetPending s then withInputs s (.idle :: s.outside.inputs) else s

/-- The state in which the command word `w` has been accepted and its latency has passed: SEQ, BUSY and DONE are as
acceptance leaves them (70_reset_and_hazards.md R285), and the completion is the next step. -/
def placed (w : Word) (s : State) : State :=
  { deferReset s with seq := .run (opOf w) 0, status := s.status.accepted }

end Sys2Proof.Machine
end

