-- ==== Sys2Proof/Machine/Sequencer.lean ====
section
/-! DEFINITION. The sequencer: the completion of the operation it runs, and whose turn it is (10_state.md R22,
70_reset_and_hazards.md R285, R286). -/

namespace Sys2Proof.Machine

/-- The running operation from acceptance to completion, in one transition (70_reset_and_hazards.md R286). -/
def runOp (op : Op) (s : State) : Host.Outcome State Fault Refusal :=
  match op with
  | .cmd i => exec i s
  | .reserved => execReserved s

/-- One step of the machine while no reset is applied. A running operation whose latency has passed completes; until
then, and while IDLE, the host has its turn (60_exceptions.md R254, 70_reset_and_hazards.md R293). -/
def sequencerTurn (s : State) : Host.Outcome State Fault Refusal :=
  match s.seq with
  | .run op 0 => runOp op s
  | .run op (n + 1) => hostTurn { s with seq := .run op n }
  | .idle => hostTurn s

/-- One step of the machine. Reset takes priority over everything (60_exceptions.md R254). -/
def machineStep (s : State) : Host.Outcome State Fault Refusal :=
  if resetPending s then hostTurn s else sequencerTurn s

end Sys2Proof.Machine
end

