-- ==== Sys2Proof/Machine/Step.lean ====
section
/-! DEFINITION. The step of the machine, and the placing of one command where the next step runs it. -/

namespace Sys2Proof.Machine

/-- One step: a completion, or one action of the host or the platform. -/
def step (s : State) : Host.Outcome State Fault Refusal := machineStep s

/-- `s` with the command word `w` accepted and its latency passed, so that the next step runs it (log entry 12). -/
def State.withFetchWord (s : State) (nbits w : Nat) : State := placed (tableWord nbits w) s

end Sys2Proof.Machine
end

