-- ==== Sys2Proof/Machine/HostAsm.lean ====
section
/-! DEFINITION. The host side of the spec: the expansion of host assembly into transactions (30_encoding.md R93, R94)
and the rendering of a result as SA2FA's strings (R87). -/

namespace Sys2Proof.Machine

/-- `rd OFF` (30_encoding.md R93). -/
def rdEvent (off : BitVec 12) : HostEvent := .access { dir := .read, width := .word, offset := off, data := 0 }

/-- `wr OFF, VAL` (30_encoding.md R93). -/
def wrEvent (off : BitVec 12) (v : Word) : HostEvent :=
  .access { dir := .write, width := .word, offset := off, data := v }

/-- `wr REG, VAL`: a register name stands for its offset (30_encoding.md R93). -/
def wrReg (r : Reg) (v : Word) : HostEvent := wrEvent (BitVec.ofNat 12 r.offsetOf) v

/-- `rd REG` (30_encoding.md R93). -/
def rdReg (r : Reg) : HostEvent := rdEvent (BitVec.ofNat 12 r.offsetOf)

/-- The writes of `setsecret` to SECRET[i ..], in order (30_encoding.md R94). -/
def secretWrites : (i : Nat) → List Byte → List HostEvent
  | _, [] => []
  | i, c :: cs => wrReg (.secret i) (c.setWidth 32) :: secretWrites (i + 1) cs

/-- The expansion of one line (30_encoding.md R94). The assertion of `expect` has no bus effect beyond the read. -/
def expandLine : AsmLine → List HostEvent
  | .rd off => [rdEvent off]
  | .wr off v => [wrEvent off v]
  | .cmd i => [wrReg .cmd (encode i)]
  | .cmdWord w => [wrReg .cmd w]
  | .wait => [.wait]
  | .setsecret s => secretWrites 0 s ++ [wrReg .secretLen (BitVec.ofNat 32 s.length)]
  | .settime ms => [wrReg .timeLo (loWord ms), wrReg .timeHi (hiWord ms)]
  | .setwindow w => [wrReg .window w]
  | .expect off _ => [rdEvent off]

/-- The host's actions for a program (30_encoding.md R93). -/
def assemble (program : List AsmLine) : List HostEvent := program.flatMap expandLine

/-- The assertion of an `expect` line, on what the latest host read returned (30_encoding.md R94). -/
def expectHolds (off : BitVec 12) (v : Word) (s : State) : Bool :=
  s.outside.reads.head? == some { offset := off, value := v }

/-- The host's rendering of a completed GENERATE: OK gives CODE[0..5], EMPTY_KEY "INVALID", HASH_FAILURE "ERROR";
BAD_WINDOW and BAD_OPCODE have none (30_encoding.md R87). The block never produces the strings. -/
def hostRendering (s : State) : Option (List Byte) :=
  match s.status.result with
  | .ok => some s.regs.code.toList
  | .emptyKey => some [0x49, 0x4E, 0x56, 0x41, 0x4C, 0x49, 0x44]
  | .hashFailure => some [0x45, 0x52, 0x52, 0x4F, 0x52]
  | .badWindow | .badOpcode => none

end Sys2Proof.Machine
end

