-- ==== Sys2Proof/Machine/SourceForms.lean ====
section
/-! DEFINITION. The source's own forms of the functions the units compute, which claims compare the units with:
normalization (40_base32_decoder.md R101), the closed form of the decoder (R110), the emitter with an unbounded
accumulator (R106), the validation predicate (41_validation.md R130), and a code read as a number
(44_truncation.md R195). No operation is defined by them. -/

namespace Sys2Proof.Machine

/-- `strip_ws`: every whitespace byte removed (40_base32_decoder.md R101). -/
def stripSpace (t : List Byte) : List Byte := t.filter fun c => !isSpace c

/-- `strip_trailing_pad`: while the last byte is `=`, it is removed (40_base32_decoder.md R101). -/
def stripTrailingPad (t : List Byte) : List Byte := t.rdropWhile isPad

/-- `norm(s)`: uppercase, strip whitespace, strip trailing padding (40_base32_decoder.md R101). -/
def normalize (s : List Byte) : List Byte := stripTrailingPad (stripSpace (s.map upper))

/-- The padding-stripping machine run over uppercased bytes (40_base32_decoder.md R102). -/
def runPads (t : List Byte) : PadCounter := t.foldl padStep padStart

/-- The emitter run over uppercased bytes (40_base32_decoder.md R104). -/
def runEmitter (t : List Byte) : Emitter := t.foldl emitStep emitStart

/-- The values v_1 .. v_k of the alphabet characters of a string, in order (40_base32_decoder.md R110). -/
def alphabetValues (s : List Byte) : List (BitVec 5) := (s.map upper).filterMap b32val

/-- A value as 5 bits, most significant first (40_base32_decoder.md R110). -/
def valueBits (v : BitVec 5) : List Bool := [v.getLsbD 4, v.getLsbD 3, v.getLsbD 2, v.getLsbD 1, v.getLsbD 0]

/-- The bit string S of a string: the bits of its values, v_1 first (40_base32_decoder.md R110). -/
def bitString (s : List Byte) : List Bool := (alphabetValues s).flatMap valueBits

/-- Bits read as a number, the first the most significant. -/
def bitsToNat (b : List Bool) : Nat := b.foldl (fun n x => 2 * n + x.toNat) 0

/-- Output byte j of the closed form: the bits of S at positions 8j .. 8j+7 (40_base32_decoder.md R110). -/
def closedByte (s : List Byte) (j : Nat) : Byte := BitVec.ofNat 8 (bitsToNat (((bitString s).drop (8 * j)).take 8))

/-- The output of the closed form: n = floor(5k / 8) bytes (40_base32_decoder.md R110). -/
def closedBytes (s : List Byte) : List Byte := (List.range (5 * (alphabetValues s).length / 8)).map (closedByte s)

/-- The residual bits of the closed form: the last 5k mod 8 bits of S as a number (40_base32_decoder.md R110). -/
def closedResidual (s : List Byte) : Nat :=
  bitsToNat ((bitString s).drop (8 * (5 * (alphabetValues s).length / 8)))

/-- The emitter with an unbounded accumulator: SA2FA's "integer value" (40_base32_decoder.md R104, R106). -/
structure WideEmitter where
  acc : Nat
  cnt : Nat
  out : List Byte
  deriving DecidableEq, Repr

/-- The unbounded emitter at the start. -/
def wideStart : WideEmitter := { acc := 0, cnt := 0, out := [] }

/-- One uppercased byte through the unbounded emitter (40_base32_decoder.md R104 without the mod 2^12 of step 3). -/
def wideStep (e : WideEmitter) (u : Byte) : WideEmitter :=
  match b32val u with
  | none => e
  | some v =>
    let acc := e.acc * 32 + v.toNat
    let cnt := e.cnt + 5
    if 8 ≤ cnt then { acc := acc, cnt := cnt - 8, out := e.out ++ [BitVec.ofNat 8 (acc / 2 ^ (cnt - 8))] }
    else { acc := acc, cnt := cnt, out := e.out }

/-- The unbounded emitter run over uppercased bytes. -/
def runWide (t : List Byte) : WideEmitter := t.foldl wideStep wideStart

/-- The validation predicate: with whitespace removed, a non-empty run of alphabet characters in either case and then
only padding (41_validation.md R130). -/
def b32valid (s : List Byte) : Prop :=
  ∃ a p, stripSpace s = a ++ p ∧ a ≠ [] ∧ (∀ c ∈ a, (b32val (upper c)).isSome) ∧ ∀ c ∈ p, isPad c

/-- A code read as a decimal number, CODE[0] the most significant digit (44_truncation.md R195). -/
def codeValue (c : Vector Byte 6) : Nat := c.toList.foldl (fun n d => 10 * n + (d.toNat - 0x30)) 0

end Sys2Proof.Machine
end

