-- ==== Sys2Proof/Safety.lean ====
section
/-! DEFINITION. The terms claims are stated in: the invariant of the machine, what an operation may write, what the
stages of an operation leave, which inputs leave an operation undisturbed. -/

namespace Sys2Proof.Machine

/-- What is true of the registers of the instance `p` at reset and after every step. -/
structure RegsInv (p : Params) (r : Regs) : Prop where
  /-- KEY has KEY_CAP elements (10_state.md R23). -/
  keySize : r.key.length = p.keyCap
  /-- SECRET has SECRET_CAP elements (10_state.md R23). -/
  secretSize : r.secret.length = p.secretCap
  /-- SECRET_LEN ≤ SECRET_CAP (10_state.md R28). -/
  secretLenLegal : r.secretLen.toNat ≤ p.secretCap
  /-- KEY_LEN ≤ KEY_CAP (10_state.md R29; 40_base32_decoder.md R114). -/
  keyLenLegal : r.keyLen.toNat ≤ p.keyCap
  /-- CAP_HINT ≤ KEY_CAP (40_base32_decoder.md R108). -/
  hintLegal : r.capHint.toNat ≤ p.keyCap
  /-- DEC_NVALID ≤ SECRET_CAP (10_state.md R32). -/
  nvalidLegal : r.nvalid.toNat ≤ p.secretCap
  /-- RCNT = 5k mod 8 (40_base32_decoder.md R110). -/
  residualCount : r.rcnt.toNat = 5 * r.nvalid.toNat % 8
  /-- RBITS < 2^RCNT (10_state.md R31). -/
  residualBits : r.rbits.toNat < 2 ^ r.rcnt.toNat
  /-- EPOCH < 2^55 (10_state.md R34). -/
  epochBound : r.epoch.toNat < 2 ^ 55
  /-- COUNTER < 2^55 (42_counter_packer.md R142). -/
  counterBound : r.counter.toNat < 2 ^ 55
  /-- OTP = BINARY mod 10^6 (44_truncation.md R192). -/
  otpReduced : r.otp.toNat = r.binary.toNat % 1000000
  /-- CODE spells OTP, or there is no code yet (44_truncation.md R193; 10_state.md R38). -/
  codeSpelled : r.code = codeOf r.otp.toNat ∨ (r.code = Vector.replicate 6 0 ∧ r.binary = 0 ∧ r.offset = 0)

/-- What is true of the machine at reset and after every step. -/
structure Inv (s : State) : Prop where
  /-- The instance parameters are legal (00_scope.md R6). -/
  paramsLegal : s.params.wf = true
  /-- The registers are legal. -/
  regsLegal : RegsInv s.params s.regs
  /-- BUSY = 1 exactly while an operation runs (10_state.md R25, R22). -/
  busyRuns : s.status.busy = true ↔ s.seq ≠ .idle
  /-- BUSY and DONE are not both 1 (10_state.md R25). -/
  busyNotDone : ¬(s.status.busy = true ∧ s.status.done = true)

/-- The registers a command may write: the "writes on OK" column of 30_encoding.md R86, and STATUS. -/
def mayWrite : Instr → Reg → Bool
  | .decode, .key _ | .decode, .keyLen | .decode, .capHint | .decode, .decResid | .decode, .decNvalid => true
  | .validate, .valid => true
  | .pack, .epochLo | .pack, .epochHi | .pack, .counterLo | .pack, .counterHi | .pack, .msg _ => true
  | .hmac, .digest _ => true
  | .trunc, .offset | .trunc, .binary | .trunc, .otp | .trunc, .code _ => true
  | .trem, .epochLo | .trem, .epochHi | .trem, .trem => true
  | .generate, .key _ | .generate, .keyLen | .generate, .capHint | .generate, .decResid => true
  | .generate, .decNvalid | .generate, .epochLo | .generate, .epochHi | .generate, .counterLo => true
  | .generate, .counterHi | .generate, .msg _ | .generate, .digest _ | .generate, .offset => true
  | .generate, .binary | .generate, .otp | .generate, .code _ => true
  | _, .status => true
  | _, _ => false

/-- The result codes a command can produce on a block with this backend: the table of 30_encoding.md R85. -/
def mayResult (b : Backend) : Instr → ResultCode → Bool
  | _, .ok => true
  | .hmac, .emptyKey | .generate, .emptyKey => true
  | .hmac, .hashFailure | .generate, .hashFailure => b == .external
  | .pack, .badWindow | .trem, .badWindow | .generate, .badWindow => true
  | _, _ => false

/-- A host action that leaves a running operation alone: it is well formed and no reset. -/
def HostEvent.quiet (e : HostEvent) : Bool := e.wf && e != .reset

/-- TIME_MS = TIME_HI × 2^32 + TIME_LO as a number (10_state.md R27). -/
def hostTime (r : Regs) : Nat := r.timeHi.toNat * 2 ^ 32 + r.timeLo.toNat

/-- The rounded seconds of the time the host gave (42_counter_packer.md R141). -/
def hostSeconds (r : Regs) : Nat := hostTime r / 1000 + if hostTime r % 1000 ≥ 500 then 1 else 0

/-- What the decode of the secret string in `a` leaves in `b` (40_base32_decoder.md R109, R110). -/
structure DecodeOutputs (a b : Regs) : Prop where
  /-- KEY[0 .. KEY_LEN−1] are the decoded bytes. -/
  key : keyBytes b = closedBytes (secretString a)
  /-- KEY[n ..] keeps its bytes (10_state.md R41). -/
  keyTail : ∀ i, b.keyLen.toNat ≤ i → byteAt b.key i = byteAt a.key i
  /-- KEY keeps its size. -/
  keySize : b.key.length = a.key.length
  /-- KEY_LEN = n. -/
  keyLen : b.keyLen.toNat = 5 * (alphabetValues (secretString a)).length / 8
  /-- CAP_HINT, from the length of the normalized string (R108). -/
  capHint : b.capHint.toNat = (normalize (secretString a)).length * 5 / 8
  /-- DEC_RESID.RCNT (R107). -/
  rcnt : b.rcnt.toNat = 5 * (alphabetValues (secretString a)).length % 8
  /-- DEC_RESID.RBITS (R107). -/
  rbits : b.rbits.toNat = closedResidual (secretString a)
  /-- DEC_NVALID = k. -/
  nvalid : b.nvalid.toNat = (alphabetValues (secretString a)).length

/-- What packing the time and the window in `a` leaves in `b` (42_counter_packer.md R141, R142, R145). -/
structure PackOutputs (a b : Regs) : Prop where
  /-- EPOCH. -/
  epoch : b.epoch.toNat = hostSeconds a
  /-- COUNTER. -/
  counter : b.counter.toNat = hostSeconds a / a.window.toNat
  /-- MSG, the big-endian bytes of COUNTER. -/
  msg : ∀ i : Fin 8, (b.msg.get i).toNat = b.counter.toNat / 2 ^ (56 - 8 * i.val) % 256

/-- DIGEST[j] as a number; past the end, 0. -/
def digestNat (r : Regs) (j : Nat) : Nat := (byteAt (digestBytes r) j).toNat

/-- What the truncation of DIGEST leaves beside it (44_truncation.md R190, R192, R193). -/
structure TruncOutputs (b : Regs) : Prop where
  /-- OFFSET = DIGEST[19] & 0x0F. -/
  offset : b.offset.toNat = digestNat b 19 % 16
  /-- BINARY: the four bytes from OFFSET, the top bit of the first masked. -/
  binary : b.binary.toNat =
    digestNat b b.offset.toNat % 128 * 2 ^ 24 + digestNat b (b.offset.toNat + 1) * 2 ^ 16 +
      digestNat b (b.offset.toNat + 2) * 2 ^ 8 + digestNat b (b.offset.toNat + 3)
  /-- OTP = BINARY mod 10^6. -/
  otp : b.otp.toNat = b.binary.toNat % 1000000
  /-- CODE[i], the digits of OTP. -/
  code : ∀ i : Fin 6, (b.code.get i).toNat = 0x30 + b.otp.toNat / 10 ^ (5 - i.val) % 10

/-- Whether a register is one of the byte registers of 10_state.md R43. -/
def Reg.isByte : Reg → Bool
  | .code _ | .msg _ | .digest _ | .key _ | .secret _ => true
  | _ => false

end Sys2Proof.Machine
end

