-- ==== Sys2Proof/Certificates/Slice0/Obligations.lean ====
section
/-! DEFINITION. The statements for the provers, each from numbered rules of spec/. -/

open Sys2Proof Sys2Proof.Machine

/-! ### Encodings -/

/-- 30_encoding.md R81: a command word is decoded by exact match on all 32 bits, with the table's eight words. -/
def Obligations.CommandWordsMatchExactly : Prop :=
  ∀ w : Word,
    (decode w = .ok .decode ↔ w = 0x00000001) ∧ (decode w = .ok .validate ↔ w = 0x00000002) ∧
    (decode w = .ok .pack ↔ w = 0x00000003) ∧ (decode w = .ok .hmac ↔ w = 0x00000004) ∧
    (decode w = .ok .trunc ↔ w = 0x00000005) ∧ (decode w = .ok .trem ↔ w = 0x00000006) ∧
    (decode w = .ok .generate ↔ w = 0x00000007) ∧ (decode w = .ok .clear ↔ w = 0x00000008)

/-- 30_encoding.md section 2: eight words written out from the table, and four reserved ones. -/
def Obligations.SpecWordsDecodeAsTheTableSays : Prop :=
  decodeTableWord 32 0x00000001 = some .decode ∧ decodeTableWord 32 0x00000002 = some .validate ∧
  decodeTableWord 32 0x00000003 = some .pack ∧ decodeTableWord 32 0x00000004 = some .hmac ∧
  decodeTableWord 32 0x00000005 = some .trunc ∧ decodeTableWord 32 0x00000006 = some .trem ∧
  decodeTableWord 32 0x00000007 = some .generate ∧ decodeTableWord 32 0x00000008 = some .clear ∧
  decodeTableWord 32 0x00000000 = none ∧ decodeTableWord 32 0x00000009 = none ∧
  decodeTableWord 32 0x00000011 = none ∧ decodeTableWord 32 0xFFFFFFFF = none

/-- 30_encoding.md section 2: decoding an encoded command gives it back. -/
def Obligations.EncodedCommandDecodesBack : Prop :=
  ∀ i : Instr, i.wf = true → decode (encode i) = .ok i ∧ decodeTableWord 32 (encode i).toNat = some i

/-- 47_control.md R241: the words outside the table are those with OP ∈ {0x0, 0x9–0xF} or CMD[31:4] ≠ 0. Such a word is
accepted like any command: it sets BUSY and is not dropped. The reserved operation completes with BAD_OPCODE and
changes nothing but STATUS (and SEQ). -/
def Obligations.ReservedWordChangesOnlyStatus : Prop :=
  ∀ w : Word,
    ((w.toNat % 16 = 0 ∨ 9 ≤ w.toNat % 16 ∨ 16 ≤ w.toNat) ↔ opOf w = .reserved) ∧
    (∀ s : State, opOf w = .reserved → s.status.busy = false →
      (hostWrite s 0x004 w).status.busy = true ∧ ∃ n, (hostWrite s 0x004 w).seq = .run .reserved n) ∧
    ∀ s : State, opOf w = .reserved → s.seq = .run (opOf w) 0 → resetPending s = false →
      step s = .next { s with
        seq := .idle
        status := { busy := false, done := true, result := .badOpcode, errBusy := s.status.errBusy } }

/-- 10_state.md section 3: the register map is one-to-one. Every register an instance has is found at its own offset,
and the register found at an offset sits there and exists in the instance. -/
def Obligations.RegisterMapRoundTrip : Prop :=
  ∀ p : Params, p.wf = true →
    (∀ r : Reg, r.wf p = true → r.offsetOf < 0x1000 ∧ regAt p r.offsetOf = some r) ∧
    ∀ (off : Nat) (r : Reg), regAt p off = some r → r.offsetOf = off ∧ r.wf p = true

/-- 10_state.md section 3: the offsets the map names as unmapped, and every misaligned one, hold no register. -/
def Obligations.UnlistedOffsetsHoldNoRegister : Prop :=
  ∀ (p : Params) (off : Nat), p.wf = true →
    (0x068 ≤ off ∧ off < 0x080 ∨ 0x0A0 ≤ off ∧ off < 0x0C0 ∨ 0x110 ≤ off ∧ off < 0x400 ∨
      0x400 + 4 * p.keyCap ≤ off ∧ off < 0x800 ∨ 0x800 + 4 * p.secretCap ≤ off ∨ off % 4 ≠ 0) →
    regAt p off = none

/-! ### Reset -/

/-- 70_reset_and_hazards.md section 1: the values R280 lists, read through the register window, SEQ, and the empty
operands; nothing is said of the SECRET and KEY bytes, which are free. -/
def Obligations.ResetLeavesTheListedValues : Prop :=
  State.reset.seq = .idle ∧
  readWindow State.reset 0x000 = 0x544F5450 ∧ readWindow State.reset 0x008 = 0 ∧
  readWindow State.reset 0x00C = 30 ∧
  (∀ r : Reg, r.wf State.reset.params = true → r ≠ .id → r ≠ .window → (∀ i, r ≠ .key i) →
    (∀ i, r ≠ .secret i) →
    readWindow State.reset r.offsetOf = 0) ∧
  secretString State.reset.regs = [] ∧ keyBytes State.reset.regs = []

/-- The invariant of the machine holds right after reset. -/
def Obligations.ResetMeetsTheInvariant : Prop := Inv State.reset

/-- 60_exceptions.md section 1, 70_reset_and_hazards.md section 1: reset takes priority over everything, a running
operation is abandoned whatever it was, and every register but SECRET and KEY has its reset value. That the host's
list of actions, its reads and the given choices are kept is the model's choice (log entry 11). -/
def Obligations.ResetAbandonsTheRunningOperation : Prop :=
  ∀ (s : State) (rest : List HostEvent), s.outside.inputs = .reset :: rest →
    ∃ t, step s = .next t ∧
      t = { State.reset with
        params := s.params
        regs := { State.reset.regs with key := t.regs.key, secret := t.regs.secret }
        outside := { s.outside with inputs := rest, draws := s.outside.draws + 1 } } ∧
      t.regs.key.length = s.params.keyCap ∧ t.regs.secret.length = s.params.secretCap

/-! ### The command protocol -/

/-- 70_reset_and_hazards.md R285: a write of w to CMD while BUSY = 0 is accepted at once: SEQ ← RUN(op(w)),
BUSY ← 1, DONE ← 0, RESULT and ERR_BUSY unchanged, and no register changes. -/
def Obligations.CommandWriteIsAccepted : Prop :=
  ∀ (s : State) (w : Word) (rest : List HostEvent),
    s.seq = .idle → s.status.busy = false → s.outside.inputs = wrReg .cmd w :: rest →
    ∃ n t, step s = .next t ∧
      t = { s with
        seq := .run (opOf w) n
        status := { busy := true, done := false, result := s.status.result, errBusy := s.status.errBusy }
        outside := { s.outside with
          inputs := rest, latencies := t.outside.latencies, draws := t.outside.draws } }

/-- The model's choice (log entry 3): the latency of an accepted command is the next one given, and a fresh free value
where none is given. -/
def Obligations.AcceptedLatencyIsTheNextGiven : Prop :=
  ∀ (s : State) (w : Word),
    (∀ n rest, s.outside.latencies = n :: rest →
      (accept w s).seq = .run (opOf w) n ∧ (accept w s).outside = { s.outside with latencies := rest }) ∧
    (s.outside.latencies = [] →
      (accept w s).seq = .run (opOf w) (Config.latency s.outside.draws) ∧
      (accept w s).outside = { s.outside with draws := s.outside.draws + 1 })

/-- 10_state.md section 2: when the word that was accepted decodes to a command and its latency has passed, the step is
exec of that command at that state; nothing else is added to it. -/
def Obligations.StepRunsTheDecodedCommand : Prop :=
  ∀ (s : State) (w : Word) (i : Instr), decode w = .ok i → i.wf = true → s.seq = .run (opOf w) 0 →
    resetPending s = false → step s = exec i s

/-- The word that withFetchWord places is what the next step runs (log entry 12). -/
def Obligations.PlacedWordIsRunNext : Prop :=
  ∀ (s : State) (w : Nat) (i : Instr), decodeTableWord 32 w = some i →
    step (s.withFetchWord 32 w) = exec i (s.withFetchWord 32 w)

/-- 70_reset_and_hazards.md section 3, 60_exceptions.md section 5: an operation whose latency has passed completes in
the next step, whatever it is, with BUSY = 0 and DONE = 1; ERR_BUSY and what is outside the block are untouched, but
for CLEAR's ERR_BUSY. -/
def Obligations.EveryOperationCompletes : Prop :=
  ∀ (s : State) (op : Op), s.seq = .run op 0 → resetPending s = false →
    ∃ t, step s = .next t ∧ t.seq = .idle ∧ t.status.busy = false ∧ t.status.done = true ∧
      (op ≠ .cmd .clear → t.status.errBusy = s.status.errBusy) ∧
      t.params = s.params ∧ t.outside.inputs = s.outside.inputs ∧ t.outside.reads = s.outside.reads ∧
      t.outside.latencies = s.outside.latencies

/-- 20_memory.md section 4, 70_reset_and_hazards.md section 4: while an operation runs, no register but STATUS
changes before its completion, and of STATUS only ERR_BUSY. -/
def Obligations.NothingChangesBeforeCompletion : Prop :=
  ∀ (s t : State) (op : Op) (n : Nat), s.seq = .run op (n + 1) → s.status.busy = true → resetPending s = false →
    step s = .next t →
    t.seq = .run op n ∧ (∀ r : Reg, r ≠ .status → readReg t r = readReg s r) ∧
    t.status.busy = true ∧ t.status.done = s.status.done ∧ t.status.result = s.status.result

/-- 70_reset_and_hazards.md R291: while BUSY = 1 every host write, wherever it goes, is dropped and sets ERR_BUSY; it
changes no other state and disturbs neither the running operation nor queues a command; and ERR_BUSY stays 1 until
CLEAR or reset. -/
def Obligations.WriteWhileBusyIsDropped : Prop :=
  (∀ (s : State) (op : Op) (n : Nat) (off : BitVec 12) (v : Word) (rest : List HostEvent),
    s.seq = .run op (n + 1) → s.status.busy = true → s.outside.inputs = wrEvent off v :: rest → off.toNat % 4 = 0 →
    step s = .next { s with
      seq := .run op n
      status := { busy := true, done := s.status.done, result := s.status.result, errBusy := true }
      outside := { s.outside with inputs := rest } }) ∧
  ∀ s t : State, step s = .next t → s.status.errBusy = true → t.status.errBusy = false →
    resetPending s = true ∨ s.seq = .run (.cmd .clear) 0

/-- 70_reset_and_hazards.md section 4: while BUSY = 1 a read of ID or STATUS is exact, and a read of any other register
returns a fresh free value (log entry 5); the read changes nothing but what the host holds. -/
def Obligations.ReadWhileBusyIsFree : Prop :=
  ∀ (s : State) (op : Op) (n : Nat) (off : BitVec 12) (rest : List HostEvent) (r : Reg),
    s.seq = .run op (n + 1) → s.status.busy = true → s.outside.inputs = rdEvent off :: rest → off.toNat % 4 = 0 →
    regAt s.params off.toNat = some r →
    ∃ v t, step s = .next t ∧
      t = { s with
        seq := .run op n
        outside := { s.outside with
          inputs := rest, reads := { offset := off, value := v } :: s.outside.reads, draws := t.outside.draws } } ∧
      (r = .id → v = 0x544F5450 ∧ t.outside.draws = s.outside.draws) ∧
      (r = .status → v = s.status.word ∧ t.outside.draws = s.outside.draws) ∧
      (r ≠ .id → r ≠ .status → v = Config.busyRead s.outside.draws ∧ t.outside.draws = s.outside.draws + 1)

/-- 60_exceptions.md section 5, 70_reset_and_hazards.md section 5: an accepted operation completes after exactly its
latency, whatever well-formed transactions the host makes meanwhile, and its outcome is that of running it on the
registers as they stood at acceptance. The latency is the count in SEQ (log entry 3). Stated where the outcome is no free
value: INTERNAL, or the library's answer given (log entry 8). -/
def Obligations.OperationFinishesAfterItsLatency : Prop :=
  ∀ (n : Nat) (s : State) (op : Op), s.params.backend = .internal ∨ s.outside.library ≠ [] →
    s.status.busy = true → s.seq = .run op n →
    (∀ e ∈ s.outside.inputs, e.quiet = true) →
    ∃ t u : State, Host.Core.run Sys2Proof.core (n + 1) s = .next t ∧ runOp op s = .next u ∧
      t.seq = .idle ∧ t.status.busy = false ∧ t.status.done = true ∧
      t = { u with
        status := { u.status with errBusy := t.status.errBusy }
        outside := { u.outside with
          inputs := t.outside.inputs, reads := t.outside.reads, draws := t.outside.draws } }

/-! ### The register window -/

/-- 20_memory.md section 2, 10_state.md section 3: while BUSY = 0 a read returns the register's value and changes nothing
else; the values are the stored ones, each in the bits of its register and zero above: LO halves the low, HI halves the
high 32 bits. -/
def Obligations.IdleReadReturnsTheRegister : Prop :=
  (∀ (s : State) (off : BitVec 12) (rest : List HostEvent) (r : Reg),
    s.seq = .idle → s.status.busy = false → s.outside.inputs = rdEvent off :: rest → off.toNat % 4 = 0 →
    regAt s.params off.toNat = some r →
    step s = .next { s with
      outside := { s.outside with
        inputs := rest, reads := { offset := off, value := readReg s r } :: s.outside.reads } } ∧
    readWindow s off.toNat = readReg s r) ∧
  ∀ s : State,
    readWindow s 0x000 = 0x544F5450 ∧ readWindow s 0x004 = 0 ∧ readWindow s 0x008 = s.status.word ∧
    readWindow s 0x00C = s.regs.window ∧ readWindow s 0x010 = s.regs.timeLo ∧ readWindow s 0x014 = s.regs.timeHi ∧
    readWindow s 0x018 = s.regs.secretLen ∧ readWindow s 0x01C = s.regs.keyLen ∧
    (readWindow s 0x020).toNat = s.regs.capHint.toNat ∧
    (readWindow s 0x024).toNat = s.regs.rcnt.toNat + 256 * s.regs.rbits.toNat ∧
    (readWindow s 0x028).toNat = s.regs.nvalid.toNat ∧
    (readWindow s 0x02C).toNat = s.regs.valid.toNat ∧
    (readWindow s 0x030).toNat = s.regs.epoch.toNat % 2 ^ 32 ∧
    (readWindow s 0x034).toNat = s.regs.epoch.toNat / 2 ^ 32 ∧
    (readWindow s 0x038).toNat = s.regs.counter.toNat % 2 ^ 32 ∧
    (readWindow s 0x03C).toNat = s.regs.counter.toNat / 2 ^ 32 ∧
    (readWindow s 0x040).toNat = s.regs.offset.toNat ∧
    (readWindow s 0x044).toNat = s.regs.binary.toNat ∧
    (readWindow s 0x048).toNat = s.regs.otp.toNat ∧
    readWindow s 0x04C = s.regs.trem

/-- 20_memory.md section 2: an access that is narrow or misaligned has no meaning and faults by name; an aligned 32-bit
access never faults. -/
def Obligations.OnlyAlignedWordAccessesAreMeaningful : Prop :=
  ∀ (s : State) (a : Access) (rest : List HostEvent), s.outside.inputs = .access a :: rest → (∀ op, s.seq ≠ .run op 0) →
    (a.width ≠ .word ∨ a.offset.toNat % 4 ≠ 0 → step s = .fault (.badAccess a)) ∧
    (a.width = .word ∧ a.offset.toNat % 4 = 0 → ∃ t, step s = .next t)

/-- 20_memory.md section 2: an unmapped offset reads 0 (while BUSY = 1 too, log entry 10), ignores a write while BUSY
= 0, and while BUSY = 1 a write to it is dropped and sets ERR_BUSY; none of them is an error. -/
def Obligations.UnmappedOffsetReadsZeroIgnoresWrites : Prop :=
  ∀ (s : State) (off : BitVec 12) (v : Word), regAt s.params off.toNat = none →
    (readValue s off.toNat).1 = 0 ∧
    (s.status.busy = false → hostWrite s off v = s) ∧
    (s.status.busy = true → hostWrite s off v = { s with status := { s.status with errBusy := true } })

/-- 10_state.md R44: a write to a read-only register changes nothing while BUSY = 0, and while BUSY = 1 it is dropped
and sets ERR_BUSY. -/
def Obligations.ReadOnlyRegistersIgnoreWrites : Prop :=
  ∀ (s : State) (off : BitVec 12) (v : Word) (r : Reg), regAt s.params off.toNat = some r →
    (r = .id ∨ r = .status ∨ r = .capHint ∨ r = .decResid ∨ r = .decNvalid ∨ r = .valid ∨ r = .epochLo ∨
      r = .epochHi ∨ r = .counterLo ∨ r = .counterHi ∨ r = .offset ∨ r = .binary ∨ r = .otp ∨ r = .trem ∨
      ∃ i, r = .code i) →
    (s.status.busy = false → hostWrite s off v = s) ∧
    (s.status.busy = true → hostWrite s off v = { s with status := { s.status with errBusy := true } })

/-- 10_state.md R43: a write to a byte register stores bits [7:0] of the data and ignores bits [31:8], but for CODE,
which is read-only; a read returns the stored byte zero-extended. -/
def Obligations.ByteRegistersHoldTheLowByte : Prop :=
  ∀ (s : State) (off : BitVec 12) (v : Word) (r : Reg), Inv s → regAt s.params off.toNat = some r → r.isByte = true →
    s.status.busy = false →
    (readWindow s off.toNat).toNat < 256 ∧
    (∀ i, r = .code i → (readWindow s off.toNat).toNat = (s.regs.code.get i).toNat) ∧
    (∀ i, r = .msg i → (readWindow s off.toNat).toNat = (s.regs.msg.get i).toNat) ∧
    (∀ i, r = .digest i → (readWindow s off.toNat).toNat = (s.regs.digest.get i).toNat) ∧
    (∀ i, r = .key i → s.regs.key[i]?.map BitVec.toNat = some (readWindow s off.toNat).toNat) ∧
    (∀ i, r = .secret i → s.regs.secret[i]?.map BitVec.toNat = some (readWindow s off.toNat).toNat) ∧
    ((∀ i, r ≠ .code i) → (readWindow (hostWrite s off v) off.toNat).toNat = v.toNat % 256) ∧
    ((∃ i, r = .code i) → hostWrite s off v = s)

/-- 10_state.md section 3: what a host write while BUSY = 0 leaves in the 32-bit read-write registers: WINDOW and TIME
the data, SECRET_LEN and KEY_LEN the data clamped to the capacity. -/
def Obligations.ScalarRegistersReadBack : Prop :=
  ∀ (s : State) (v : Word), s.status.busy = false →
    readWindow (hostWrite s 0x00C v) 0x00C = v ∧
    readWindow (hostWrite s 0x010 v) 0x010 = v ∧
    readWindow (hostWrite s 0x014 v) 0x014 = v ∧
    (readWindow (hostWrite s 0x018 v) 0x018).toNat = min v.toNat s.params.secretCap ∧
    (readWindow (hostWrite s 0x01C v) 0x01C).toNat = min v.toNat s.params.keyCap

/-- 20_memory.md section 2: a write to a register other than CMD leaves every other offset of the window alone. -/
def Obligations.WriteLeavesOtherRegistersAlone : Prop :=
  ∀ (s : State) (off off' : BitVec 12) (v : Word), s.status.busy = false →
    regAt s.params off.toNat ≠ some .cmd → off' ≠ off →
    readWindow (hostWrite s off v) off'.toNat = readWindow s off'.toNat

/-- 10_state.md section 3: the fields of STATUS in the 32-bit word the host reads, reserved bits 0. -/
def Obligations.StatusWordLayout : Prop :=
  ∀ t : Status, t.word.toNat =
    t.busy.toNat + 2 * t.done.toNat + 16 * (match t.result with
      | .ok => 0 | .emptyKey => 1 | .hashFailure => 2 | .badWindow => 3 | .badOpcode => 4) + 256 * t.errBusy.toNat

/-! ### Whole-machine rules -/

/-- The invariant holds after every step that starts in a state where it holds. -/
def Obligations.EveryStepKeepsTheInvariant : Prop := ∀ s t : State, Inv s → step s = .next t → Inv t

/-- 30_encoding.md section 3, R85, which the spec derives: each command produces only the result codes the table gives
it, HASH_FAILURE with EXTERNAL only, and each of those it does produce in some state; a reserved word produces
BAD_OPCODE. -/
def Obligations.ResultCodesPerOperation : Prop :=
  (∀ (i : Instr) (s t : State), exec i s = .next t → mayResult s.params.backend i t.status.result = true) ∧
  (∀ (b : Backend) (i : Instr) (r : ResultCode), mayResult b i r = true →
    ∃ s t : State, s.params.backend = b ∧ exec i s = .next t ∧ t.status.result = r) ∧
  ∀ s t : State, execReserved s = .next t → t.status.result = .badOpcode

/-- 30_encoding.md section 4, 10_state.md section 2: a command changes no register outside the "writes" column of its
row, STATUS apart, and nothing outside the block but the external library's answers. -/
def Obligations.CommandsWriteOnlyTheirRegisters : Prop :=
  ∀ (i : Instr) (s t : State), exec i s = .next t →
    (∀ r : Reg, mayWrite i r = false → readReg t r = readReg s r) ∧
    t.params = s.params ∧ t.outside.inputs = s.outside.inputs ∧ t.outside.reads = s.outside.reads ∧
    t.outside.latencies = s.outside.latencies ∧
    (i ≠ .hmac → i ≠ .generate → t.outside.library = s.outside.library ∧ t.outside.draws = s.outside.draws)

/-- 10_state.md sections 1 and 3: no step changes the instance parameters, and without a reset or a host write the
registers only the host writes keep their values: SECRET, SECRET_LEN, WINDOW, TIME. -/
def Obligations.OnlyTheHostWritesItsOperands : Prop :=
  ∀ s t : State, step s = .next t →
    t.params = s.params ∧
    (resetPending s = false → (∀ a rest, s.outside.inputs = .access a :: rest → a.dir ≠ .write) →
      t.regs.secret = s.regs.secret ∧ t.regs.secretLen = s.regs.secretLen ∧ t.regs.window = s.regs.window ∧
      t.regs.timeLo = s.regs.timeLo ∧
      t.regs.timeHi = s.regs.timeHi)

/-! ### The Base32 decoder and the validator -/

/-- 40_base32_decoder.md section 2, R103, which the spec derives: the padding-stripping machine yields L =
len(norm(s)). -/
def Obligations.PaddingMachineMeasuresNormalizedString : Prop :=
  ∀ s : List Byte, (b32decode s).pads.kept = (normalize s).length

/-- 40_base32_decoder.md section 2, R105, which the spec derives: over upper(s) in full the emitter emits the same
bytes, ends with the same ACC and CNT and counts the same k as over norm(s). -/
def Obligations.EmitterSkipsWhatNormalizationRemoves : Prop :=
  ∀ s : List Byte, runEmitter (s.map upper) = runEmitter (normalize s) ∧ (b32decode s).emit = runEmitter (normalize s)

/-- 40_base32_decoder.md section 2, R106, which the spec derives: 0 ≤ CNT ≤ 7 between characters and 5 ≤ CNT ≤ 12
after an alphabet character is shifted in, each character emits at most one byte, and an emitter with an unbounded
accumulator emits the same bytes and ends with the same CNT and the same residual bits. -/
def Obligations.EmitterBounds : Prop :=
  ∀ (t : List Byte) (u : Byte),
    (runEmitter t).cnt ≤ 7 ∧
    (5 ≤ (runEmitter t).cnt + 5 ∧ (runEmitter t).cnt + 5 ≤ 12) ∧
    (runEmitter (t ++ [u])).out.length ≤ (runEmitter t).out.length + 1 ∧
    (runWide t).out = (runEmitter t).out ∧ (runWide t).cnt = (runEmitter t).cnt ∧
    (runWide t).acc % 2 ^ (runWide t).cnt = (runEmitter t).acc.toNat % 2 ^ (runEmitter t).cnt

/-- 40_base32_decoder.md section 2, R110, which the spec derives: with S the bits of the k alphabet values, the
emitter emits floor(5k / 8) bytes, byte j being the bits of S at 8j .. 8j+7, and leaves 5k mod 8 residual bits, the
last of S. -/
def Obligations.DecoderClosedForm : Prop :=
  ∀ s : List Byte,
    (b32decode s).emit.nvalid = (alphabetValues s).length ∧
    (b32decode s).emit.out = closedBytes s ∧
    (b32decode s).emit.out.length = 5 * (alphabetValues s).length / 8 ∧
    (b32decode s).emit.cnt = 5 * (alphabetValues s).length % 8 ∧
    (b32decode s).residual = closedResidual s ∧ closedResidual s < 2 ^ (b32decode s).emit.cnt

/-- 40_base32_decoder.md section 2, R114, which the spec derives: n ≤ floor(5 × SECRET_LEN / 8) ≤ floor(5 × SECRET_CAP
/ 8) = KEY_CAP. -/
def Obligations.DecodedKeyFits : Prop :=
  ∀ s : State, Inv s →
    (b32decode (secretString s.regs)).emit.out.length ≤ 5 * s.regs.secretLen.toNat / 8 ∧
    5 * s.regs.secretLen.toNat / 8 ≤ 5 * s.params.secretCap / 8 ∧ 5 * s.params.secretCap / 8 = s.params.keyCap

/-- 40_base32_decoder.md R109: the word 0x00000001 is DECODE. DECODE completes with OK; KEY[0..n−1], KEY_LEN,
CAP_HINT, DEC_RESID and DEC_NVALID are those of the decoded secret string, and nothing else changes: KEY[n ..] keeps
its bytes. -/
def Obligations.DecodeWritesTheDecodedString : Prop :=
  decode 0x00000001 = .ok .decode ∧ ∀ s : State, Inv s →
    ∃ t, exec .decode s = .next t ∧
      t = { s with
        seq := .idle
        status := { busy := false, done := true, result := .ok, errBusy := s.status.errBusy }
        regs := { s.regs with
          key := t.regs.key, keyLen := t.regs.keyLen, capHint := t.regs.capHint, rcnt := t.regs.rcnt
          rbits := t.regs.rbits, nvalid := t.regs.nvalid } } ∧
      keyBytes t.regs = closedBytes (secretString s.regs) ∧
      t.regs.keyLen.toNat = 5 * (alphabetValues (secretString s.regs)).length / 8 ∧
      t.regs.key.length = s.regs.key.length ∧
      (∀ i, t.regs.keyLen.toNat ≤ i → byteAt t.regs.key i = byteAt s.regs.key i) ∧
      t.regs.capHint.toNat = (normalize (secretString s.regs)).length * 5 / 8 ∧
      (readReg t .decResid).toNat =
        5 * (alphabetValues (secretString s.regs)).length % 8 + 256 * closedResidual (secretString s.regs) ∧
      t.regs.nvalid.toNat = (alphabetValues (secretString s.regs)).length

/-- 40_base32_decoder.md R113: the empty string, and a string with no alphabet character, decode to no byte, and DECODE
completes with OK. -/
def Obligations.NoAlphabetCharacterDecodesToNothing : Prop :=
  ∀ s : State, (s.regs.secretLen = 0 ∨ ∀ c ∈ secretString s.regs, b32val (upper c) = none) →
    (b32decode (secretString s.regs)).emit.out = [] ∧
    ∃ t, exec .decode s = .next t ∧ t.regs.keyLen = 0 ∧ t.status.result = .ok ∧ t.status.done = true

/-- 40_base32_decoder.md section 3, R115, which the spec derives: DECODE run twice on unchanged SECRET and SECRET_LEN
writes the same values, whatever the other registers hold; run again at once it changes nothing. -/
def Obligations.DecodeTwiceIsDecodeOnce : Prop :=
  (∀ s s' t t' : State, Inv s → Inv s' → secretString s.regs = secretString s'.regs →
    exec .decode s = .next t → exec .decode s' = .next t' →
    keyBytes t.regs = keyBytes t'.regs ∧ t.regs.keyLen = t'.regs.keyLen ∧ t.regs.capHint = t'.regs.capHint ∧
    t.regs.rcnt = t'.regs.rcnt ∧ t.regs.rbits = t'.regs.rbits ∧ t.regs.nvalid = t'.regs.nvalid) ∧
  ∀ s t u : State, exec .decode s = .next t → exec .decode t = .next u → u = t

/-- 41_validation.md R131, which the spec derives from R130: the four-state machine accepts exactly the strings of the
predicate of R130. -/
def Obligations.ValidatorComputesThePredicate : Prop :=
  ∀ s : List Byte, (runValidator s).accepts = true ↔ b32valid s

/-- 41_validation.md R132: the word 0x00000002 is VALIDATE. VALIDATE completes with OK and VALID is the verdict on the
secret string; nothing else changes. -/
def Obligations.ValidateStoresTheVerdict : Prop :=
  decode 0x00000002 = .ok .validate ∧ ∀ s : State,
    ∃ t, exec .validate s = .next t ∧
      t = { s with
        seq := .idle
        status := { busy := false, done := true, result := .ok, errBusy := s.status.errBusy }
        regs := { s.regs with valid := t.regs.valid } } ∧
      (t.regs.valid = true ↔ b32valid (secretString s.regs))

/-- 41_validation.md section on R133, which the spec derives: a valid string has an alphabet character, but with
exactly one it decodes to no byte, and GENERATE then raises EMPTY_KEY. -/
def Obligations.ValidStringMayDecodeToNothing : Prop :=
  ∀ s : State, b32valid (secretString s.regs) →
    1 ≤ (alphabetValues (secretString s.regs)).length ∧
    ((alphabetValues (secretString s.regs)).length = 1 →
      (b32decode (secretString s.regs)).emit.out = [] ∧
      ∃ t, exec .generate s = .next t ∧ t.status.result = .emptyKey)

/-- 41_validation.md section on R134, which the spec derives: a valid string decodes without skipping a character of
its normalized form, while "JBSW-Y3DP" is invalid and still decodes to "Hello". -/
def Obligations.PredicateIsStricterThanDecoder : Prop :=
  (∀ s : List Byte, b32valid s → ∀ c ∈ normalize s, (b32val c).isSome) ∧
  ¬ b32valid [0x4A, 0x42, 0x53, 0x57, 0x2D, 0x59, 0x33, 0x44, 0x50] ∧
  (b32decode [0x4A, 0x42, 0x53, 0x57, 0x2D, 0x59, 0x33, 0x44, 0x50]).emit.out = [0x48, 0x65, 0x6C, 0x6C, 0x6F]

/-! ### The counter packer and the time-remaining calculator -/

/-- 42_counter_packer.md R144: the word 0x00000003 is PACK. PACK with WINDOW ≥ 1 completes with OK, EPOCH the rounded
seconds, COUNTER = EPOCH div WINDOW and MSG its big-endian bytes; with WINDOW = 0 it raises BAD_WINDOW; nothing else
changes. -/
def Obligations.PackComputesTheCounter : Prop :=
  decode 0x00000003 = .ok .pack ∧ ∀ s : State,
    (s.regs.window ≠ 0 →
      ∃ t, exec .pack s = .next t ∧
        t = { s with
          seq := .idle
          status := { busy := false, done := true, result := .ok, errBusy := s.status.errBusy }
          regs := { s.regs with epoch := t.regs.epoch, counter := t.regs.counter, msg := t.regs.msg } } ∧
        t.regs.epoch.toNat = hostTime s.regs / 1000 + (if hostTime s.regs % 1000 ≥ 500 then 1 else 0) ∧
        t.regs.counter.toNat = t.regs.epoch.toNat / s.regs.window.toNat ∧
        ∀ i : Fin 8, (t.regs.msg.get i).toNat = t.regs.counter.toNat / 2 ^ (56 - 8 * i.val) % 256) ∧
    (s.regs.window = 0 →
      exec .pack s = .next { s with
        seq := .idle
        status := { busy := false, done := true, result := .badWindow, errBusy := s.status.errBusy } })

/-- 42_counter_packer.md R141: EPOCH is TIME_MS / 1000 rounded to the nearest integer, a tie up, and it stays below
2^55 for every 64-bit TIME_MS. -/
def Obligations.EpochRoundsToNearest : Prop :=
  ∀ ms : Nat,
    1000 * epochOf ms ≤ ms + 500 ∧ ms + 500 < 1000 * epochOf ms + 1000 ∧
    (ms < 2 ^ 64 → epochOf ms ≤ 18446744073709552 ∧ epochOf ms < 2 ^ 55)

/-- 42_counter_packer.md section on R146, which the spec derives: MSG[0..3] are all zero if and only if COUNTER <
2^32, and EPOCH < 2^32 implies it. -/
def Obligations.HighMessageBytesAreZero : Prop :=
  ∀ s t : State, s.regs.window ≠ 0 → exec .pack s = .next t →
    ((∀ i : Fin 8, i.val < 4 → t.regs.msg.get i = 0) ↔ t.regs.counter.toNat < 2 ^ 32) ∧
    (t.regs.epoch.toNat < 2 ^ 32 → ∀ i : Fin 8, i.val < 4 → t.regs.msg.get i = 0)

/-- 42_counter_packer.md section on R147, which the spec derives: for a fixed WINDOW ≥ 1 the COUNTER that PACK leaves does
not decrease as TIME_MS grows; it is n for every EPOCH from n·WINDOW to n·WINDOW + WINDOW − 1; two times of one rounded
second give one EPOCH, that second, and one COUNTER; two times of one truncated second may give different ones. -/
def Obligations.CounterFollowsTheWindow : Prop :=
  (∀ s s' t t' : State, s.regs.window ≠ 0 → s'.regs.window = s.regs.window →
    exec .pack s = .next t → exec .pack s' = .next t' →
    (hostTime s.regs ≤ hostTime s'.regs → t.regs.counter.toNat ≤ t'.regs.counter.toNat) ∧
    (∀ n : Nat, n * s.regs.window.toNat ≤ t.regs.epoch.toNat →
      t.regs.epoch.toNat ≤ n * s.regs.window.toNat + s.regs.window.toNat - 1 → t.regs.counter.toNat = n) ∧
    (∀ e : Nat, 1000 * e ≤ hostTime s.regs + 500 → hostTime s.regs ≤ 1000 * e + 499 →
      1000 * e ≤ hostTime s'.regs + 500 → hostTime s'.regs ≤ 1000 * e + 499 →
      t.regs.epoch.toNat = e ∧ t'.regs.epoch.toNat = e ∧ t.regs.counter = t'.regs.counter)) ∧
  ∃ s s' t t' : State, s.regs.window = 30 ∧ s'.regs.window = 30 ∧ hostTime s.regs = 29400 ∧ hostTime s'.regs = 29600 ∧
    exec .pack s = .next t ∧ exec .pack s' = .next t' ∧ t.regs.counter = 0 ∧ t'.regs.counter = 1

/-- 46_time_remaining.md R232: the word 0x00000006 is TREM. TREM with WINDOW ≥ 1 completes with OK, TREM = WINDOW −
(EPOCH mod WINDOW) in [1, WINDOW]; with WINDOW = 0 it raises BAD_WINDOW; nothing else changes. -/
def Obligations.TremStoresTheSecondsLeft : Prop :=
  decode 0x00000006 = .ok .trem ∧ ∀ s : State,
    (s.regs.window ≠ 0 →
      ∃ t, exec .trem s = .next t ∧
        t = { s with
          seq := .idle
          status := { busy := false, done := true, result := .ok, errBusy := s.status.errBusy }
          regs := { s.regs with epoch := t.regs.epoch, trem := t.regs.trem } } ∧
        t.regs.epoch.toNat = hostTime s.regs / 1000 + (if hostTime s.regs % 1000 ≥ 500 then 1 else 0) ∧
        t.regs.trem.toNat = s.regs.window.toNat - t.regs.epoch.toNat % s.regs.window.toNat ∧
        1 ≤ t.regs.trem.toNat ∧ t.regs.trem.toNat ≤ s.regs.window.toNat) ∧
    (s.regs.window = 0 →
      exec .trem s = .next { s with
        seq := .idle
        status := { busy := false, done := true, result := .badWindow, errBusy := s.status.errBusy } })

/-- 46_time_remaining.md section on R233, which the spec derives: TREM = (COUNTER + 1) × WINDOW − EPOCH with the counter
that PACK computes, and GENERATE too when it completes with OK, and TREM = WINDOW exactly when EPOCH is the first second
of a window. -/
def Obligations.TremAndPackAgree : Prop :=
  ∀ s t u : State, s.regs.window ≠ 0 → exec .pack s = .next t → exec .trem s = .next u →
    u.regs.trem.toNat = (t.regs.counter.toNat + 1) * s.regs.window.toNat - t.regs.epoch.toNat ∧
    (u.regs.trem = s.regs.window ↔ u.regs.epoch.toNat % s.regs.window.toNat = 0) ∧ u.regs.epoch = t.regs.epoch ∧
    ∀ g : State, exec .generate s = .next g → g.status.result = .ok → g.regs.counter = t.regs.counter

/-! ### HMAC-SHA1 -/

/-- 43_hmac_sha1.md section 2, R161, from general knowledge (log entry 14): the padded message is the message, 0x80,
the least number z of zero bytes with (len + 1 + z) mod 64 = 56, and the bit length in 8 big-endian bytes; its length
is a multiple of 64. -/
def Obligations.ShaPaddingFillsBlocks : Prop :=
  ∀ m : List Byte, m.length < 2 ^ 61 →
    ∃ z : Nat, shaPad m = m ++ [0x80] ++ List.replicate z 0 ++ bytesBe (8 * m.length) 8 ∧
      (m.length + 1 + z) % 64 = 56 ∧ (∀ y : Nat, (m.length + 1 + y) % 64 = 56 → z ≤ y) ∧
      (shaPad m).length % 64 = 0

/-- 43_hmac_sha1.md section 2, R164, from general knowledge (log entry 14): the message schedule of a 64-byte block:
80 words, the first 16 the block's big-endian words, the others by the recurrence. -/
def Obligations.ScheduleFollowsTheRecurrence : Prop :=
  ∀ b : List Byte, b.length = 64 →
    (schedule b).length = 80 ∧
    (∀ t, t < 16 → ((schedule b).getD t 0).toNat =
      (byteAt b (4 * t)).toNat * 2 ^ 24 + (byteAt b (4 * t + 1)).toNat * 2 ^ 16 +
      (byteAt b (4 * t + 2)).toNat * 2 ^ 8 + (byteAt b (4 * t + 3)).toNat) ∧
    (∀ t, 16 ≤ t → t < 80 → (schedule b).getD t 0 =
      rotl32 ((schedule b).getD (t - 3) 0 ^^^ (schedule b).getD (t - 8) 0 ^^^ (schedule b).getD (t - 14) 0 ^^^
        (schedule b).getD (t - 16) 0) 1)

/-- 43_hmac_sha1.md section 3, R173, which the spec derives: two keys of at most 64 bytes that differ only by trailing
zero bytes give the same HMAC. -/
def Obligations.TrailingZeroKeysAgree : Prop :=
  ∀ (k m : List Byte) (n : Nat), k.length + n ≤ 64 → hmacSha1 (k ++ List.replicate n 0) m = hmacSha1 k m

/-- 43_hmac_sha1.md R171: the word 0x00000004 is HMAC. HMAC with KEY_LEN = 0 raises EMPTY_KEY; otherwise, with
INTERNAL or when the library answers, it completes with OK and DIGEST is HMAC_SHA1(KEY, MSG); when the library fails
it raises HASH_FAILURE. DIGEST is not written on a raise, and nothing else changes in the block. -/
def Obligations.HmacStoresTheDigest : Prop :=
  decode 0x00000004 = .ok .hmac ∧ ∀ s : State,
    (s.regs.keyLen = 0 →
      exec .hmac s = .next { s with
        seq := .idle
        status := { busy := false, done := true, result := .emptyKey, errBusy := s.status.errBusy } }) ∧
    (s.regs.keyLen ≠ 0 → s.params.backend = .internal ∨ (drawLibrary s.outside).1 = true →
      ∃ t, exec .hmac s = .next t ∧
        t = { s with
          seq := .idle
          status := { busy := false, done := true, result := .ok, errBusy := s.status.errBusy }
          regs := { s.regs with digest := t.regs.digest }
          outside := t.outside } ∧
        (s.params.backend = .internal → t.outside = s.outside) ∧
        (s.params.backend = .external → t.outside = (drawLibrary s.outside).2) ∧
        t.regs.digest.toList = hmacSha1 (keyBytes s.regs) (msgBytes s.regs)) ∧
    (s.regs.keyLen ≠ 0 → s.params.backend = .external → (drawLibrary s.outside).1 = false →
      exec .hmac s = .next { s with
        seq := .idle
        status := { busy := false, done := true, result := .hashFailure, errBusy := s.status.errBusy }
        outside := (drawLibrary s.outside).2 })

/-- 43_hmac_sha1.md section 5, R174, which the spec derives: under INTERNAL, equal KEY_LEN, KEY[0..KEY_LEN−1] and MSG
give equal DIGEST. -/
def Obligations.EqualOperandsGiveEqualDigest : Prop :=
  ∀ s s' t t' : State, s.params.backend = .internal → s'.params.backend = .internal → s.regs.keyLen ≠ 0 →
    s.regs.keyLen = s'.regs.keyLen → keyBytes s.regs = keyBytes s'.regs → s.regs.msg = s'.regs.msg →
    exec .hmac s = .next t → exec .hmac s' = .next t' → t.regs.digest = t'.regs.digest

/-! ### The truncator -/

/-- 44_truncation.md R194: the word 0x00000005 is TRUNC. TRUNC completes with OK; OFFSET is the low 4 bits of
DIGEST[19], BINARY the four bytes from there with the top bit masked, OTP its remainder by 10^6 and CODE the six
digits; nothing else changes. -/
def Obligations.TruncStoresTheCode : Prop :=
  decode 0x00000005 = .ok .trunc ∧ ∀ s : State,
    ∃ t, exec .trunc s = .next t ∧
      t = { s with
        seq := .idle
        status := { busy := false, done := true, result := .ok, errBusy := s.status.errBusy }
        regs := { s.regs with
          offset := t.regs.offset, binary := t.regs.binary, otp := t.regs.otp, code := t.regs.code } } ∧
      t.regs.offset.toNat = s.regs.digest[19].toNat % 16 ∧
      (∀ d : Nat → Nat, (∀ j : Fin 20, d j.val = (s.regs.digest.get j).toNat) →
        t.regs.binary.toNat = d t.regs.offset.toNat % 128 * 2 ^ 24 + d (t.regs.offset.toNat + 1) * 2 ^ 16 +
          d (t.regs.offset.toNat + 2) * 2 ^ 8 + d (t.regs.offset.toNat + 3)) ∧
      t.regs.otp.toNat = t.regs.binary.toNat % 1000000 ∧
      ∀ i : Fin 6, (t.regs.code.get i).toNat = 0x30 + t.regs.otp.toNat / 10 ^ (5 - i.val) % 10

/-- 44_truncation.md section on R195, which the spec derives: TRUNC is a function of DIGEST; OFFSET ≤ 15, BINARY <
2^31, OTP < 10^6, CODE[0..5] are digit bytes, and the code read as a decimal number is OTP. -/
def Obligations.TruncOutputsInRange : Prop :=
  (∀ s t : State, exec .trunc s = .next t →
    t.regs.offset.toNat ≤ 15 ∧ t.regs.binary.toNat < 2 ^ 31 ∧ t.regs.otp.toNat < 10 ^ 6 ∧
    (∀ i : Fin 6, 0x30 ≤ (t.regs.code.get i).toNat ∧ (t.regs.code.get i).toNat ≤ 0x39) ∧
    codeValue t.regs.code = t.regs.otp.toNat) ∧
  ∀ s s' t t' : State, s.regs.digest = s'.regs.digest → exec .trunc s = .next t → exec .trunc s' = .next t' →
    t.regs.offset = t'.regs.offset ∧ t.regs.binary = t'.regs.binary ∧ t.regs.otp = t'.regs.otp ∧
    t.regs.code = t'.regs.code

/-! ### GENERATE and CLEAR -/

/-- 45_generate.md section on R210: the word 0x00000007 is GENERATE. GENERATE with a secret that decodes to at least one
byte, WINDOW ≥ 1 and an HMAC that does not fail completes with OK. Its four stages have left the decoded key and the
decode registers, EPOCH, COUNTER and MSG, the HMAC of MSG under the key in DIGEST, and the truncation of that DIGEST;
nothing else changes but SEQ, STATUS and the library's use (log entry 8). -/
def Obligations.GenerateCompletesWithACode : Prop :=
  decode 0x00000007 = .ok .generate ∧
  ∀ s : State, Inv s → 5 * (alphabetValues (secretString s.regs)).length / 8 ≠ 0 → s.regs.window ≠ 0 →
    s.params.backend = .internal ∨ (drawLibrary s.outside).1 = true →
    ∃ t, exec .generate s = .next t ∧
      t = { s with
        seq := .idle
        status := { busy := false, done := true, result := .ok, errBusy := s.status.errBusy }
        regs := t.regs
        outside := t.outside } ∧
      t.regs.window = s.regs.window ∧ t.regs.timeLo = s.regs.timeLo ∧ t.regs.timeHi = s.regs.timeHi ∧
      t.regs.secretLen = s.regs.secretLen ∧ t.regs.secret = s.regs.secret ∧ t.regs.valid = s.regs.valid ∧
      t.regs.trem = s.regs.trem ∧
      (s.params.backend = .internal → t.outside = s.outside) ∧
      (s.params.backend = .external → t.outside = (drawLibrary s.outside).2) ∧
      DecodeOutputs s.regs t.regs ∧ PackOutputs s.regs t.regs ∧
      t.regs.digest.toList = hmacSha1 (closedBytes (secretString s.regs)) (bytesBe t.regs.counter.toNat 8) ∧
      TruncOutputs t.regs ∧ codeValue t.regs.code = t.regs.otp.toNat

/-- 45_generate.md R211: exactly one result is reported, the first in step order: EMPTY_KEY before BAD_WINDOW before
HASH_FAILURE; no later stage runs after a raise. The outputs of the stages before it are written, with the values those
stages give (stated under the invariant), and nothing else changes but SEQ, STATUS and the library's use. -/
def Obligations.GenerateStopsAtTheFirstFailure : Prop :=
  ∀ s t : State, exec .generate s = .next t →
    (5 * (alphabetValues (secretString s.regs)).length / 8 = 0 →
      t.status = { busy := false, done := true, result := .emptyKey, errBusy := s.status.errBusy } ∧
      t.regs.keyLen = 0 ∧ (Inv s → DecodeOutputs s.regs t.regs) ∧
      t = { s with
        seq := .idle, status := t.status
        regs := { s.regs with
          key := t.regs.key, keyLen := t.regs.keyLen, capHint := t.regs.capHint, rcnt := t.regs.rcnt
          rbits := t.regs.rbits, nvalid := t.regs.nvalid } }) ∧
    (5 * (alphabetValues (secretString s.regs)).length / 8 ≠ 0 → s.regs.window = 0 →
      t.status = { busy := false, done := true, result := .badWindow, errBusy := s.status.errBusy } ∧
      (Inv s → DecodeOutputs s.regs t.regs) ∧
      t = { s with
        seq := .idle, status := t.status
        regs := { s.regs with
          key := t.regs.key, keyLen := t.regs.keyLen, capHint := t.regs.capHint, rcnt := t.regs.rcnt
          rbits := t.regs.rbits, nvalid := t.regs.nvalid } }) ∧
    (5 * (alphabetValues (secretString s.regs)).length / 8 ≠ 0 → s.regs.window ≠ 0 → s.params.backend = .external →
      (drawLibrary s.outside).1 = false →
      t.status = { busy := false, done := true, result := .hashFailure, errBusy := s.status.errBusy } ∧
      (Inv s → DecodeOutputs s.regs t.regs) ∧ PackOutputs s.regs t.regs ∧
      t = { s with
        seq := .idle, status := t.status
        regs := { s.regs with
          key := t.regs.key, keyLen := t.regs.keyLen, capHint := t.regs.capHint, rcnt := t.regs.rcnt
          rbits := t.regs.rbits, nvalid := t.regs.nvalid, epoch := t.regs.epoch, counter := t.regs.counter
          msg := t.regs.msg }
        outside := (drawLibrary s.outside).2 }) ∧
    (5 * (alphabetValues (secretString s.regs)).length / 8 ≠ 0 → s.regs.window ≠ 0 →
      s.params.backend = .internal ∨ (drawLibrary s.outside).1 = true → t.status.result = .ok)

/-- 45_generate.md section on R213, which the spec derives: an OK GENERATE leaves what DECODE, PACK, HMAC and TRUNC
leave, each run to completion; after an EMPTY_KEY one the sequence would run PACK and its HMAC would raise EMPTY_KEY.
-/
def Obligations.GenerateIsTheFourUnitsInSequence : Prop :=
  ∀ s t : State, exec .generate s = .next t →
    (t.status.result = .ok →
      ∃ a b c, exec .decode s = .next a ∧ exec .pack a = .next b ∧ exec .hmac b = .next c ∧ exec .trunc c = .next t) ∧
    (t.status.result = .emptyKey →
      ∃ a b c, exec .decode s = .next a ∧ exec .pack a = .next b ∧ exec .hmac b = .next c ∧
        c.status.result = .emptyKey ∧ t.regs.epoch = s.regs.epoch ∧
        (s.regs.window ≠ 0 → b.regs.epoch.toNat = epochOf (hostTime s.regs)))

/-- 45_generate.md section on R212, which the spec derives: under INTERNAL the outcome of GENERATE depends only on
SECRET_LEN, SECRET[0..SECRET_LEN−1], TIME and WINDOW, and the digest and code only on the key and the counter. -/
def Obligations.GenerateDependsOnlyOnItsOperands : Prop :=
  ∀ s s' t t' : State, Inv s → Inv s' → s.params.backend = .internal → s'.params.backend = .internal →
    exec .generate s = .next t → exec .generate s' = .next t' →
    (secretString s.regs = secretString s'.regs → s.regs.timeLo = s'.regs.timeLo → s.regs.timeHi = s'.regs.timeHi →
      s.regs.window = s'.regs.window →
      t.status.result = t'.status.result ∧ t.regs.keyLen = t'.regs.keyLen ∧ keyBytes t.regs = keyBytes t'.regs ∧
      t.regs.capHint = t'.regs.capHint ∧ t.regs.rcnt = t'.regs.rcnt ∧ t.regs.rbits = t'.regs.rbits ∧
      t.regs.nvalid = t'.regs.nvalid ∧
      (t.status.result = .ok →
        t.regs.epoch = t'.regs.epoch ∧ t.regs.counter = t'.regs.counter ∧ t.regs.msg = t'.regs.msg ∧
        t.regs.digest = t'.regs.digest ∧ t.regs.offset = t'.regs.offset ∧ t.regs.binary = t'.regs.binary ∧
        t.regs.otp = t'.regs.otp ∧ t.regs.code = t'.regs.code)) ∧
    (t.status.result = .ok → t'.status.result = .ok → keyBytes t.regs = keyBytes t'.regs →
      t.regs.counter = t'.regs.counter →
      t.regs.digest = t'.regs.digest ∧ t.regs.code = t'.regs.code)

/-- 47_control.md R240: the word 0x00000008 is CLEAR. CLEAR sets ERR_BUSY to 0 and completes with OK; no other
register changes. -/
def Obligations.ClearResetsOnlyTheOverrunFlag : Prop :=
  decode 0x00000008 = .ok .clear ∧ ∀ s : State,
    exec .clear s = .next { s with
      seq := .idle, status := { busy := false, done := true, result := .ok, errBusy := false } }
end

