-- ==== Sys2Proof/Laws/Base32.lean ====
section
/-! SUPPORT. The small lemmas of the decoder unit: one more character, and the two halves of the decoder apart. -/

namespace Sys2Proof.Machine

@[simp] theorem runEmitter_nil : runEmitter [] = emitStart := rfl

@[simp] theorem runEmitter_snoc (t : List Byte) (u : Byte) : runEmitter (t ++ [u]) = emitStep (runEmitter t) u := by
  simp [runEmitter]

@[simp] theorem runPads_nil : runPads [] = padStart := rfl

@[simp] theorem runPads_snoc (t : List Byte) (u : Byte) : runPads (t ++ [u]) = padStep (runPads t) u := by
  simp [runPads]

@[simp] theorem runWide_nil : runWide [] = wideStart := rfl

@[simp] theorem runWide_snoc (t : List Byte) (u : Byte) : runWide (t ++ [u]) = wideStep (runWide t) u := by
  simp [runWide]

/-- The decoder is its two machines side by side, each over the uppercased string. -/
theorem b32decode_eq (s : List Byte) :
    b32decode s = { pads := runPads (s.map upper), emit := runEmitter (s.map upper) } := by
  suffices h : ∀ d : Decoder, s.foldl decoderStep d =
      { pads := (s.map upper).foldl padStep d.pads, emit := (s.map upper).foldl emitStep d.emit } from h _
  induction s with
  | nil => intro d; rfl
  | cons c s ih => intro d; simp [ih, decoderStep]

/-- A byte outside the alphabet leaves the emitter. -/
theorem emitStep_skip {u : Byte} (h : b32val u = none) (e : Emitter) : emitStep e u = e := by simp [emitStep, h]

/-- An alphabet byte goes into the emitter. -/
theorem emitStep_value {u : Byte} {v : BitVec 5} (h : b32val u = some v) (e : Emitter) :
    emitStep e u = emitValue e v := by simp [emitStep, h]

/-- No whitespace byte is in the alphabet. -/
theorem b32val_of_isSpace {u : Byte} (h : isSpace u = true) : b32val u = none := by
  revert u
  decide

/-- Padding is not in the alphabet. -/
theorem b32val_of_isPad {u : Byte} (h : isPad u = true) : b32val u = none := by
  revert u
  decide

/-- Uppercasing neither makes nor unmakes whitespace. -/
@[simp] theorem isSpace_upper (c : Byte) : isSpace (upper c) = isSpace c := by
  revert c
  decide

/-- Uppercasing neither makes nor unmakes padding. -/
@[simp] theorem isPad_upper (c : Byte) : isPad (upper c) = isPad c := by
  revert c
  decide

end Sys2Proof.Machine
end

