-- ==== Sys2Proof/Laws/Bits.lean ====
section
/-! SUPPORT. The small lemmas of the bit and byte helpers and of the lengths SHA-1 works with. -/

namespace Sys2Proof.Machine

@[simp] theorem bytesBe_length (v n : Nat) : (bytesBe v n).length = n := by
  induction n with
  | zero => rfl
  | succ n ih => simp [bytesBe, ih]

@[simp] theorem overwriteFront_nil_right (buf : List Byte) : overwriteFront buf [] = buf := by
  cases buf <;> rfl

@[simp] theorem overwriteFront_length (buf out : List Byte) : (overwriteFront buf out).length = buf.length := by
  induction buf generalizing out with
  | nil => rfl
  | cons b buf ih => cases out <;> simp [overwriteFront, ih]

/-- A buffer that holds `out` starts with it afterwards. -/
theorem overwriteFront_take {buf out : List Byte} (h : out.length ≤ buf.length) :
    (overwriteFront buf out).take out.length = out := by
  induction buf generalizing out with
  | nil => simp_all [overwriteFront]
  | cons b buf ih => cases out with
    | nil => simp
    | cons o out => simpa [overwriteFront] using ih (by simpa using h)

/-- Past `out` the buffer keeps its bytes. -/
theorem overwriteFront_byteAt {buf out : List Byte} {i : Nat} (h : out.length ≤ i) :
    byteAt (overwriteFront buf out) i = byteAt buf i := by
  induction buf generalizing out i with
  | nil => rfl
  | cons b buf ih => cases out with
    | nil => simp
    | cons o out => cases i with
      | zero => simp at h
      | succ i => simpa [byteAt, overwriteFront] using ih (by simpa using h)

/-- Overwriting twice with the same bytes is overwriting once. -/
theorem overwriteFront_idem (buf out : List Byte) :
    overwriteFront (overwriteFront buf out) out = overwriteFront buf out := by
  induction buf generalizing out with
  | nil => rfl
  | cons b buf ih => cases out <;> simp [overwriteFront, ih]

@[simp] theorem digestOf_length (h : ShaVars) : (digestOf h).length = 20 := by simp [digestOf]

@[simp] theorem sha1_length (m : List Byte) : (sha1 m).length = 20 := digestOf_length _

@[simp] theorem hmacSha1_length (k m : List Byte) : (hmacSha1 k m).length = 20 := sha1_length _

end Sys2Proof.Machine
end

