-- ==== Sys2Proof/Laws/Ops.lean ====
section
/-! SUPPORT. What the shared operations can answer: one lemma an operation, cited instead of unfolding it. -/

namespace Sys2Proof.Machine

/-! ### Stages and completion -/

@[simp] theorem Staged.finish_goesOn (s : State) : (Staged.goesOn s).finish = .next (complete .ok s) := rfl

@[simp] theorem Staged.finish_raised (r : ResultCode) (s : State) :
    (Staged.raised r s).finish = .next (complete r s) := rfl

@[simp] theorem Staged.andThen_goesOn (s : State) (f : State → Staged) : (Staged.goesOn s).andThen f = f s := rfl

@[simp] theorem Staged.andThen_raised (r : ResultCode) (s : State) (f : State → Staged) :
    (Staged.raised r s).andThen f = .raised r s := rfl

/-- A finished operation has gone on to its end or has raised; there is no third way. -/
theorem Staged.finish_next {x : Staged} {t : State} (h : x.finish = .next t) :
    (∃ s, x = .goesOn s ∧ t = complete .ok s) ∨ ∃ r s, x = .raised r s ∧ t = complete r s := by
  cases x with
  | goesOn s => exact .inl ⟨s, rfl, by simpa using h.symm⟩
  | raised r s => exact .inr ⟨r, s, rfl, by simpa using h.symm⟩

/-- The packing stage for a non-zero window. -/
theorem packStage_of_ne {s : State} (h : s.regs.window ≠ 0) :
    packStage s = .goesOn { s with regs := commitPack s.regs.window.toNat s.regs } := if_neg h

/-- The packing stage for WINDOW = 0. -/
theorem packStage_of_eq {s : State} (h : s.regs.window = 0) : packStage s = .raised .badWindow s := if_pos h

/-- The time-remaining stage for a non-zero window. -/
theorem tremStage_of_ne {s : State} (h : s.regs.window ≠ 0) :
    tremStage s = .goesOn { s with regs := commitTrem s.regs.window.toNat s.regs } := if_neg h

/-- The time-remaining stage for WINDOW = 0. -/
theorem tremStage_of_eq {s : State} (h : s.regs.window = 0) : tremStage s = .raised .badWindow s := if_pos h

/-- The key test for a non-empty key. -/
theorem keyStage_of_ne {s : State} (h : s.regs.keyLen ≠ 0) : keyStage s = .goesOn s := if_neg h

/-- The key test for an empty key. -/
theorem keyStage_of_eq {s : State} (h : s.regs.keyLen = 0) : keyStage s = .raised .emptyKey s := if_pos h

/-- A request to the library leaves the host's part of what is outside, and the latencies given. -/
theorem drawLibrary_keeps (o : Outside) :
    (drawLibrary o).2.inputs = o.inputs ∧ (drawLibrary o).2.reads = o.reads ∧
      (drawLibrary o).2.latencies = o.latencies := by
  unfold drawLibrary
  split <;> exact ⟨rfl, rfl, rfl⟩

/-- The digest stage of an INTERNAL block hashes. -/
theorem digestStage_internal {s : State} (h : s.params.backend = .internal) :
    digestStage s = .goesOn (digestCommitted s) := by simp [digestStage, h]

/-- The digest stage of an EXTERNAL block whose library answers hashes. -/
theorem digestStage_answered {s : State} (h : s.params.backend = .external) (hl : (drawLibrary s.outside).1 = true) :
    digestStage s = .goesOn (digestCommitted { s with outside := (drawLibrary s.outside).2 }) := by
  obtain ⟨b, o, e⟩ : ∃ b o, drawLibrary s.outside = (b, o) := ⟨_, _, rfl⟩
  simp only [e] at hl
  simp [digestStage, externalDigest, h, e, hl]

/-- The digest stage of an EXTERNAL block whose library fails raises HASH_FAILURE. -/
theorem digestStage_failed {s : State} (h : s.params.backend = .external) (hl : (drawLibrary s.outside).1 = false) :
    digestStage s = .raised .hashFailure { s with outside := (drawLibrary s.outside).2 } := by
  obtain ⟨b, o, e⟩ : ∃ b o, drawLibrary s.outside = (b, o) := ⟨_, _, rfl⟩
  simp only [e] at hl
  simp [digestStage, externalDigest, h, e, hl]

/-- The digest stage that does not fail: the digest is committed, and only the library's use shows outside. -/
theorem digestStage_succeeds {s : State} (h : s.params.backend = .internal ∨ (drawLibrary s.outside).1 = true) :
    ∃ o, digestStage s =
        .goesOn { s with
          regs := commitDigest (hmacSha1 (keyBytes s.regs) (msgBytes s.regs)) s.regs, outside := o } ∧
      (s.params.backend = .internal → o = s.outside) ∧
      (s.params.backend = .external → o = (drawLibrary s.outside).2) := by
  cases hb : s.params.backend with
  | internal => exact ⟨_, digestStage_internal hb, fun _ => rfl, nofun⟩
  | external => exact ⟨_, digestStage_answered hb (h.resolve_left (by simp [hb])), nofun, fun _ => rfl⟩

/-- The digest stage hashes, or HASH_FAILURE is raised by an EXTERNAL library; no other register is touched. -/
theorem digestStage_cases (s : State) :
    (s.params.backend = .internal ∧ digestStage s = .goesOn (digestCommitted s)) ∨
    (s.params.backend = .external ∧ (drawLibrary s.outside).1 = true ∧
      digestStage s = .goesOn (digestCommitted { s with outside := (drawLibrary s.outside).2 })) ∨
    (s.params.backend = .external ∧ (drawLibrary s.outside).1 = false ∧
      digestStage s = .raised .hashFailure { s with outside := (drawLibrary s.outside).2 }) := by
  cases hb : s.params.backend with
  | internal => exact .inl ⟨rfl, digestStage_internal hb⟩
  | external => cases hl : (drawLibrary s.outside).1 with
    | true => exact .inr (.inl ⟨rfl, rfl, digestStage_answered hb hl⟩)
    | false => exact .inr (.inr ⟨rfl, rfl, digestStage_failed hb hl⟩)

/-! ### The commands -/

/-- DECODE commits the decoded string and completes with OK. -/
theorem exec_decode (s : State) :
    exec .decode s = .next (complete .ok { s with regs := commitDecode (b32decode (secretString s.regs)) s.regs }) :=
  rfl

/-- VALIDATE commits the verdict and completes with OK. -/
theorem exec_validate (s : State) :
    exec .validate s =
      .next (complete .ok { s with regs := { s.regs with valid := (runValidator (secretString s.regs)).accepts } }) :=
  rfl

/-- TRUNC commits the truncation and completes with OK. -/
theorem exec_trunc (s : State) : exec .trunc s = .next (complete .ok { s with regs := commitTrunc s.regs }) := rfl

/-- CLEAR clears ERR_BUSY and completes with OK. -/
theorem exec_clear (s : State) : exec .clear s = .next (complete .ok { s with status := s.status.clearOverrun }) := rfl

/-- A reserved word completes with BAD_OPCODE. -/
theorem runOp_reserved (s : State) : runOp .reserved s = .next (complete .badOpcode s) := rfl

/-- PACK with WINDOW ≥ 1. -/
theorem exec_pack_of_ne {s : State} (h : s.regs.window ≠ 0) :
    exec .pack s = .next (complete .ok { s with regs := commitPack s.regs.window.toNat s.regs }) := by
  simp only [exec, execPack, packStage_of_ne h, Staged.finish_goesOn]

/-- PACK with WINDOW = 0. -/
theorem exec_pack_of_eq {s : State} (h : s.regs.window = 0) : exec .pack s = .next (complete .badWindow s) := by
  simp only [exec, execPack, packStage_of_eq h, Staged.finish_raised]

/-- TREM with WINDOW ≥ 1. -/
theorem exec_trem_of_ne {s : State} (h : s.regs.window ≠ 0) :
    exec .trem s = .next (complete .ok { s with regs := commitTrem s.regs.window.toNat s.regs }) := by
  simp only [exec, execTrem, tremStage_of_ne h, Staged.finish_goesOn]

/-- TREM with WINDOW = 0. -/
theorem exec_trem_of_eq {s : State} (h : s.regs.window = 0) : exec .trem s = .next (complete .badWindow s) := by
  simp only [exec, execTrem, tremStage_of_eq h, Staged.finish_raised]

/-- HMAC with KEY_LEN = 0. -/
theorem exec_hmac_of_eq {s : State} (h : s.regs.keyLen = 0) : exec .hmac s = .next (complete .emptyKey s) := by
  simp only [exec, execHmac, keyStage_of_eq h, Staged.andThen_raised, Staged.finish_raised]

/-- HMAC with a key is the digest stage. -/
theorem exec_hmac_of_ne {s : State} (h : s.regs.keyLen ≠ 0) : exec .hmac s = (digestStage s).finish := by
  simp only [exec, execHmac, keyStage_of_ne h, Staged.andThen_goesOn]

/-- The state GENERATE's first stage leaves. -/
theorem decodeStage_eq (s : State) :
    decodeStage s = .goesOn { s with regs := commitDecode (b32decode (secretString s.regs)) s.regs } := rfl

/-- GENERATE of a secret that decodes to no byte. -/
theorem exec_generate_emptyKey {s d : State} (hd : decodeStage s = .goesOn d) (h : d.regs.keyLen = 0) :
    exec .generate s = .next (complete .emptyKey d) := by
  simp only [exec, execGenerate, generateStages, hd, Staged.andThen_goesOn, keyStage_of_eq h, Staged.andThen_raised,
    Staged.finish_raised]

/-- GENERATE of a secret with a key, and WINDOW = 0. -/
theorem exec_generate_badWindow {s d : State} (hd : decodeStage s = .goesOn d) (h : d.regs.keyLen ≠ 0)
    (hw : d.regs.window = 0) : exec .generate s = .next (complete .badWindow d) := by
  simp only [exec, execGenerate, generateStages, hd, Staged.andThen_goesOn, keyStage_of_ne h, packStage_of_eq hw,
    Staged.andThen_raised, Staged.finish_raised]

/-- GENERATE of a secret with a key, and WINDOW ≥ 1: the digest and the truncation of what PACK leaves. -/
theorem exec_generate_packed {s d : State} (hd : decodeStage s = .goesOn d) (h : d.regs.keyLen ≠ 0)
    (hw : d.regs.window ≠ 0) :
    exec .generate s =
      ((digestStage { d with regs := commitPack d.regs.window.toNat d.regs }).andThen truncStage).finish := by
  simp only [exec, execGenerate, generateStages, hd, Staged.andThen_goesOn, keyStage_of_ne h, packStage_of_ne hw]

/-! ### The command protocol -/

/-- An accepted command is given a latency: the next given one, or a free value. -/
theorem drawLatency_cases (o : Outside) :
    (∃ n rest, o.latencies = n :: rest ∧ drawLatency o = (n, { o with latencies := rest })) ∨
    (o.latencies = [] ∧ drawLatency o = (Config.latency o.draws, { o with draws := o.draws + 1 })) := by
  unfold drawLatency
  cases h : o.latencies with
  | nil => exact .inr ⟨rfl, rfl⟩
  | cons n rest => exact .inl ⟨n, rest, rfl, rfl⟩

@[simp] theorem accept_params (w : Word) (s : State) : (accept w s).params = s.params := by simp only [accept]
@[simp] theorem accept_seq (w : Word) (s : State) : (accept w s).seq = .run (opOf w) (drawLatency s.outside).1 := by
  simp only [accept]
@[simp] theorem accept_status (w : Word) (s : State) : (accept w s).status = s.status.accepted := by
  simp only [accept]
@[simp] theorem accept_regs (w : Word) (s : State) : (accept w s).regs = s.regs := by simp only [accept]
@[simp] theorem accept_outside (w : Word) (s : State) : (accept w s).outside = (drawLatency s.outside).2 := by
  simp only [accept]

/-- What a word that decodes runs. -/
theorem opOf_of_decode {w : Word} {i : Instr} (h : decode w = .ok i) : opOf w = .cmd i := by simp [opOf, h]

/-! ### The host port -/

/-- A read while BUSY = 0 is the register's value, and draws nothing. -/
theorem readValue_of_idle {s : State} (h : s.status.busy = false) (off : Nat) :
    readValue s off = (readWindow s off, s.outside) := by simp [readValue, h]

/-- A read changes nothing outside the block but the count of draws. -/
theorem readValue_outside (s : State) (off : Nat) : ∃ d, (readValue s off).2 = { s.outside with draws := d } := by
  unfold readValue
  split
  · split
    · exact ⟨s.outside.draws, rfl⟩
    · exact ⟨s.outside.draws, rfl⟩
    · exact ⟨s.outside.draws + 1, rfl⟩
    · exact ⟨s.outside.draws, rfl⟩
  · exact ⟨s.outside.draws, rfl⟩

/-- A host read changes only what the host holds and the count of draws. -/
theorem hostRead_eq (s : State) (off : BitVec 12) :
    ∃ v d, hostRead s off = { s with
      outside := { s.outside with reads := { offset := off, value := v } :: s.outside.reads, draws := d } } := by
  obtain ⟨d, h⟩ := readValue_outside s off.toNat
  exact ⟨(readValue s off.toNat).1, d, by simp only [hostRead, h]⟩

@[simp] theorem hostRead_params (s : State) (off : BitVec 12) : (hostRead s off).params = s.params := rfl
@[simp] theorem hostRead_seq (s : State) (off : BitVec 12) : (hostRead s off).seq = s.seq := rfl
@[simp] theorem hostRead_status (s : State) (off : BitVec 12) : (hostRead s off).status = s.status := rfl
@[simp] theorem hostRead_regs (s : State) (off : BitVec 12) : (hostRead s off).regs = s.regs := rfl

/-- A write while BUSY = 1 is dropped. -/
theorem hostWrite_of_busy {s : State} (h : s.status.busy = true) (off : BitVec 12) (v : Word) :
    hostWrite s off v = { s with status := s.status.overrun } := by simp [hostWrite, h]

/-- A write while BUSY = 0 is performed. -/
theorem hostWrite_of_idle {s : State} (h : s.status.busy = false) (off : BitVec 12) (v : Word) :
    hostWrite s off v = writeWindow s off.toNat v := by simp [hostWrite, h]

/-- An access answers a next state exactly when it is well formed: a read or a write. -/
theorem hostAccess_next {a : Access} {s t : State} (h : hostAccess a s = .next t) :
    a.wf = true ∧ (a.dir = .read ∧ t = hostRead s a.offset ∨ a.dir = .write ∧ t = hostWrite s a.offset a.data) := by
  unfold hostAccess at h
  split at h
  · rename_i hw
    refine ⟨hw, ?_⟩
    split at h
    · exact .inl ⟨‹_›, by simpa using h.symm⟩
    · exact .inr ⟨‹_›, by simpa using h.symm⟩
  · cases h

/-- What the turn of the host and the platform can do. -/
theorem hostTurn_next {s t : State} (h : hostTurn s = .next t) :
    (s.outside.inputs = [] ∧ t = s) ∨
    (∃ rest, s.outside.inputs = .idle :: rest ∧ t = withInputs s rest) ∨
    (∃ rest, s.outside.inputs = .reset :: rest ∧ t = resetBlock (withInputs s rest)) ∨
    (∃ a rest, s.outside.inputs = .access a :: rest ∧ hostAccess a (withInputs s rest) = .next t) ∨
    (∃ rest, s.outside.inputs = .wait :: rest ∧ t = pollStatus rest s) := by
  unfold hostTurn at h
  split at h
  · exact .inl ⟨‹_›, by simpa using h.symm⟩
  · exact .inr (.inl ⟨_, ‹_›, by simpa using h.symm⟩)
  · exact .inr (.inr (.inl ⟨_, ‹_›, by simpa using h.symm⟩))
  · exact .inr (.inr (.inr (.inl ⟨_, _, ‹_›, h⟩)))
  · exact .inr (.inr (.inr (.inr ⟨_, ‹_›, by simpa using h.symm⟩)))

/-- A reset is pending exactly when it is the next action. -/
theorem resetPending_iff (s : State) : resetPending s = true ↔ ∃ rest, s.outside.inputs = .reset :: rest := by
  unfold resetPending
  split <;> simp_all

/-- No reset is pending in a state where a command has been placed. -/
@[simp] theorem resetPending_placed (w : Word) (s : State) : resetPending (placed w s) = false := by
  have e : resetPending (placed w s) = resetPending (deferReset s) := rfl
  rw [e, deferReset]
  split
  · rfl
  · exact eq_false_of_ne_true ‹_›

/-! ### The step -/

/-- What one step can do: reset, a completion, or the host's turn, of a running block or an idle one. -/
theorem step_next {s t : State} (h : step s = .next t) :
    (∃ rest, s.outside.inputs = .reset :: rest ∧ t = resetBlock (withInputs s rest)) ∨
    (resetPending s = false ∧ ∃ op, s.seq = .run op 0 ∧ runOp op s = .next t) ∨
    (resetPending s = false ∧ ∃ op n, s.seq = .run op (n + 1) ∧ hostTurn { s with seq := .run op n } = .next t) ∨
    (resetPending s = false ∧ s.seq = .idle ∧ hostTurn s = .next t) := by
  unfold step machineStep at h
  split at h
  · rename_i hr
    obtain ⟨rest, hi⟩ := (resetPending_iff s).mp hr
    exact .inl ⟨rest, hi, by simpa [hostTurn, hi] using h.symm⟩
  · rename_i hr
    have hr : resetPending s = false := by simpa using hr
    unfold sequencerTurn at h
    split at h
    · exact .inr (.inl ⟨hr, _, ‹_›, h⟩)
    · exact .inr (.inr (.inl ⟨hr, _, _, ‹_›, h⟩))
    · exact .inr (.inr (.inr ⟨hr, ‹_›, h⟩))

/-- A running operation whose latency has passed: the step is that operation. -/
theorem step_of_due {s : State} {op : Op} (hq : s.seq = .run op 0) (hr : resetPending s = false) :
    step s = runOp op s := by simp [step, machineStep, sequencerTurn, hr, hq]

/-- A running operation whose latency has not passed: one step of it is spent on the host's turn. -/
theorem step_of_running {s : State} {op : Op} {n : Nat} (hq : s.seq = .run op (n + 1))
    (hr : resetPending s = false) : step s = hostTurn { s with seq := .run op n } := by
  simp [step, machineStep, sequencerTurn, hr, hq]

/-- An idle block: the step is the host's turn. -/
theorem step_of_idle {s : State} (hq : s.seq = .idle) : step s = hostTurn s := by
  simp [step, machineStep, sequencerTurn, hq]

end Sys2Proof.Machine
end

