-- ==== Sys2Proof/Laws/PerInstr.lean ====
section
/-! SUPPORT. Statements for all commands, made per command. -/

/-- The word of a command has MBZ = 0 and an OP from 0x1 to 0x8 (30_encoding.md R80, R81). -/
def Sys2Proof.Laws.CommandWord.Statement (i : Sys2Proof.Instr) : Prop :=
  Sys2Proof.mbzField (Sys2Proof.encode i) = 0 ∧ 1 ≤ (Sys2Proof.opField (Sys2Proof.encode i)).toNat ∧
    (Sys2Proof.opField (Sys2Proof.encode i)).toNat ≤ 8

theorem Sys2Proof.Laws.CommandWord.decode : Sys2Proof.Laws.CommandWord.Statement .decode := by
  unfold Sys2Proof.Laws.CommandWord.Statement; decide

theorem Sys2Proof.Laws.CommandWord.validate : Sys2Proof.Laws.CommandWord.Statement .validate := by
  unfold Sys2Proof.Laws.CommandWord.Statement; decide

theorem Sys2Proof.Laws.CommandWord.pack : Sys2Proof.Laws.CommandWord.Statement .pack := by
  unfold Sys2Proof.Laws.CommandWord.Statement; decide

theorem Sys2Proof.Laws.CommandWord.hmac : Sys2Proof.Laws.CommandWord.Statement .hmac := by
  unfold Sys2Proof.Laws.CommandWord.Statement; decide

theorem Sys2Proof.Laws.CommandWord.trunc : Sys2Proof.Laws.CommandWord.Statement .trunc := by
  unfold Sys2Proof.Laws.CommandWord.Statement; decide

theorem Sys2Proof.Laws.CommandWord.trem : Sys2Proof.Laws.CommandWord.Statement .trem := by
  unfold Sys2Proof.Laws.CommandWord.Statement; decide

theorem Sys2Proof.Laws.CommandWord.generate : Sys2Proof.Laws.CommandWord.Statement .generate := by
  unfold Sys2Proof.Laws.CommandWord.Statement; decide

theorem Sys2Proof.Laws.CommandWord.clear : Sys2Proof.Laws.CommandWord.Statement .clear := by
  unfold Sys2Proof.Laws.CommandWord.Statement; decide
end

