-- ==== Sys2Proof/Laws/State.lean ====
section
/-! SUPPORT. What each shared update leaves in each field, one lemma a field, so that no proof unfolds an
update. -/

namespace Sys2Proof.Machine

/-! ### STATUS -/

@[simp] theorem Status.accepted_busy (t : Status) : t.accepted.busy = true := rfl
@[simp] theorem Status.accepted_done (t : Status) : t.accepted.done = false := rfl
@[simp] theorem Status.accepted_result (t : Status) : t.accepted.result = t.result := rfl
@[simp] theorem Status.accepted_errBusy (t : Status) : t.accepted.errBusy = t.errBusy := rfl
@[simp] theorem Status.completed_busy (t : Status) (r : ResultCode) : (t.completed r).busy = false := rfl
@[simp] theorem Status.completed_done (t : Status) (r : ResultCode) : (t.completed r).done = true := rfl
@[simp] theorem Status.completed_result (t : Status) (r : ResultCode) : (t.completed r).result = r := rfl
@[simp] theorem Status.completed_errBusy (t : Status) (r : ResultCode) : (t.completed r).errBusy = t.errBusy := rfl
@[simp] theorem Status.overrun_busy (t : Status) : t.overrun.busy = t.busy := rfl
@[simp] theorem Status.overrun_done (t : Status) : t.overrun.done = t.done := rfl
@[simp] theorem Status.overrun_result (t : Status) : t.overrun.result = t.result := rfl
@[simp] theorem Status.overrun_errBusy (t : Status) : t.overrun.errBusy = true := rfl
@[simp] theorem Status.clearOverrun_busy (t : Status) : t.clearOverrun.busy = t.busy := rfl
@[simp] theorem Status.clearOverrun_done (t : Status) : t.clearOverrun.done = t.done := rfl
@[simp] theorem Status.clearOverrun_result (t : Status) : t.clearOverrun.result = t.result := rfl
@[simp] theorem Status.clearOverrun_errBusy (t : Status) : t.clearOverrun.errBusy = false := rfl

/-! ### complete -/

@[simp] theorem complete_params (r : ResultCode) (s : State) :
    (complete r s).params = s.params := by simp only [complete]
@[simp] theorem complete_seq (r : ResultCode) (s : State) : (complete r s).seq = .idle := by simp only [complete]
@[simp] theorem complete_status (r : ResultCode) (s : State) :
    (complete r s).status = s.status.completed r := by simp only [complete]
@[simp] theorem complete_regs (r : ResultCode) (s : State) : (complete r s).regs = s.regs := by simp only [complete]
@[simp] theorem complete_outside (r : ResultCode) (s : State) :
    (complete r s).outside = s.outside := by simp only [complete]

/-! ### withInputs, deferReset and placed -/

@[simp] theorem withInputs_params (s : State) (rest : List HostEvent) :
    (withInputs s rest).params = s.params := by simp only [withInputs]
@[simp] theorem withInputs_seq (s : State) (rest : List HostEvent) :
    (withInputs s rest).seq = s.seq := by simp only [withInputs]
@[simp] theorem withInputs_status (s : State) (rest : List HostEvent) :
    (withInputs s rest).status = s.status := by simp only [withInputs]
@[simp] theorem withInputs_regs (s : State) (rest : List HostEvent) :
    (withInputs s rest).regs = s.regs := by simp only [withInputs]
@[simp] theorem withInputs_outside (s : State) (rest : List HostEvent) :
    (withInputs s rest).outside = { s.outside with inputs := rest } := by simp only [withInputs]
@[simp] theorem deferReset_params (s : State) : (deferReset s).params = s.params := by
  unfold deferReset; split <;> rfl
@[simp] theorem deferReset_seq (s : State) : (deferReset s).seq = s.seq := by
  unfold deferReset; split <;> rfl
@[simp] theorem deferReset_status (s : State) : (deferReset s).status = s.status := by
  unfold deferReset; split <;> rfl
@[simp] theorem deferReset_regs (s : State) : (deferReset s).regs = s.regs := by
  unfold deferReset; split <;> rfl
@[simp] theorem placed_params (w : Word) (s : State) : (placed w s).params = s.params := by
  simp [placed]
@[simp] theorem placed_seq (w : Word) (s : State) : (placed w s).seq = .run (opOf w) 0 := by
  simp [placed]
@[simp] theorem placed_status (w : Word) (s : State) : (placed w s).status = s.status.accepted := by
  simp [placed]
@[simp] theorem placed_regs (w : Word) (s : State) : (placed w s).regs = s.regs := by
  simp [placed]

/-! ### resetBlock -/

@[simp] theorem resetBlock_params (s : State) : (resetBlock s).params = s.params := by simp only [resetBlock]
@[simp] theorem resetBlock_seq (s : State) : (resetBlock s).seq = .idle := by simp only [resetBlock]
@[simp] theorem resetBlock_status (s : State) : (resetBlock s).status = Status.afterReset := by simp only [resetBlock]
@[simp] theorem resetBlock_regs (s : State) :
    (resetBlock s).regs = Regs.afterReset s.params s.outside.draws := by simp only [resetBlock]
@[simp] theorem resetBlock_outside (s : State) :
    (resetBlock s).outside = { s.outside with draws := s.outside.draws + 1 } := by simp only [resetBlock]

/-! ### commitDecode -/

@[simp] theorem commitDecode_window (d : Decoder) (r : Regs) :
    (commitDecode d r).window = r.window := by simp only [commitDecode]
@[simp] theorem commitDecode_timeLo (d : Decoder) (r : Regs) :
    (commitDecode d r).timeLo = r.timeLo := by simp only [commitDecode]
@[simp] theorem commitDecode_timeHi (d : Decoder) (r : Regs) :
    (commitDecode d r).timeHi = r.timeHi := by simp only [commitDecode]
@[simp] theorem commitDecode_secretLen (d : Decoder) (r : Regs) :
    (commitDecode d r).secretLen = r.secretLen := by simp only [commitDecode]
@[simp] theorem commitDecode_keyLen (d : Decoder) (r : Regs) :
    (commitDecode d r).keyLen = BitVec.ofNat 32 d.emit.out.length := by simp only [commitDecode]
@[simp] theorem commitDecode_capHint (d : Decoder) (r : Regs) :
    (commitDecode d r).capHint = BitVec.ofNat 16 d.capHint := by simp only [commitDecode]
@[simp] theorem commitDecode_rcnt (d : Decoder) (r : Regs) :
    (commitDecode d r).rcnt = BitVec.ofNat 4 d.emit.cnt := by simp only [commitDecode]
@[simp] theorem commitDecode_rbits (d : Decoder) (r : Regs) :
    (commitDecode d r).rbits = BitVec.ofNat 7 d.residual := by simp only [commitDecode]
@[simp] theorem commitDecode_nvalid (d : Decoder) (r : Regs) :
    (commitDecode d r).nvalid = BitVec.ofNat 16 d.emit.nvalid := by simp only [commitDecode]
@[simp] theorem commitDecode_valid (d : Decoder) (r : Regs) :
    (commitDecode d r).valid = r.valid := by simp only [commitDecode]
@[simp] theorem commitDecode_epoch (d : Decoder) (r : Regs) :
    (commitDecode d r).epoch = r.epoch := by simp only [commitDecode]
@[simp] theorem commitDecode_counter (d : Decoder) (r : Regs) :
    (commitDecode d r).counter = r.counter := by simp only [commitDecode]
@[simp] theorem commitDecode_offset (d : Decoder) (r : Regs) :
    (commitDecode d r).offset = r.offset := by simp only [commitDecode]
@[simp] theorem commitDecode_binary (d : Decoder) (r : Regs) :
    (commitDecode d r).binary = r.binary := by simp only [commitDecode]
@[simp] theorem commitDecode_otp (d : Decoder) (r : Regs) :
    (commitDecode d r).otp = r.otp := by simp only [commitDecode]
@[simp] theorem commitDecode_trem (d : Decoder) (r : Regs) :
    (commitDecode d r).trem = r.trem := by simp only [commitDecode]
@[simp] theorem commitDecode_code (d : Decoder) (r : Regs) :
    (commitDecode d r).code = r.code := by simp only [commitDecode]
@[simp] theorem commitDecode_msg (d : Decoder) (r : Regs) :
    (commitDecode d r).msg = r.msg := by simp only [commitDecode]
@[simp] theorem commitDecode_digest (d : Decoder) (r : Regs) :
    (commitDecode d r).digest = r.digest := by simp only [commitDecode]
@[simp] theorem commitDecode_key (d : Decoder) (r : Regs) :
    (commitDecode d r).key = overwriteFront r.key d.emit.out := by simp only [commitDecode]
@[simp] theorem commitDecode_secret (d : Decoder) (r : Regs) :
    (commitDecode d r).secret = r.secret := by simp only [commitDecode]

/-! ### commitPack -/

@[simp] theorem commitPack_window (w : Nat) (r : Regs) :
    (commitPack w r).window = r.window := by simp only [commitPack]
@[simp] theorem commitPack_timeLo (w : Nat) (r : Regs) :
    (commitPack w r).timeLo = r.timeLo := by simp only [commitPack]
@[simp] theorem commitPack_timeHi (w : Nat) (r : Regs) :
    (commitPack w r).timeHi = r.timeHi := by simp only [commitPack]
@[simp] theorem commitPack_secretLen (w : Nat) (r : Regs) :
    (commitPack w r).secretLen = r.secretLen := by simp only [commitPack]
@[simp] theorem commitPack_keyLen (w : Nat) (r : Regs) :
    (commitPack w r).keyLen = r.keyLen := by simp only [commitPack]
@[simp] theorem commitPack_capHint (w : Nat) (r : Regs) :
    (commitPack w r).capHint = r.capHint := by simp only [commitPack]
@[simp] theorem commitPack_rcnt (w : Nat) (r : Regs) : (commitPack w r).rcnt = r.rcnt := by simp only [commitPack]
@[simp] theorem commitPack_rbits (w : Nat) (r : Regs) : (commitPack w r).rbits = r.rbits := by simp only [commitPack]
@[simp] theorem commitPack_nvalid (w : Nat) (r : Regs) :
    (commitPack w r).nvalid = r.nvalid := by simp only [commitPack]
@[simp] theorem commitPack_valid (w : Nat) (r : Regs) : (commitPack w r).valid = r.valid := by simp only [commitPack]
@[simp] theorem commitPack_epoch (w : Nat) (r : Regs) :
    (commitPack w r).epoch = BitVec.ofNat 64 (epochOf (timeMs r).toNat) := by simp only [commitPack]
@[simp] theorem commitPack_counter (w : Nat) (r : Regs) :
    (commitPack w r).counter = BitVec.ofNat 64 (epochOf (timeMs r).toNat / w) := by simp only [commitPack]
@[simp] theorem commitPack_offset (w : Nat) (r : Regs) :
    (commitPack w r).offset = r.offset := by simp only [commitPack]
@[simp] theorem commitPack_binary (w : Nat) (r : Regs) :
    (commitPack w r).binary = r.binary := by simp only [commitPack]
@[simp] theorem commitPack_otp (w : Nat) (r : Regs) : (commitPack w r).otp = r.otp := by simp only [commitPack]
@[simp] theorem commitPack_trem (w : Nat) (r : Regs) : (commitPack w r).trem = r.trem := by simp only [commitPack]
@[simp] theorem commitPack_code (w : Nat) (r : Regs) : (commitPack w r).code = r.code := by simp only [commitPack]
@[simp] theorem commitPack_msg (w : Nat) (r : Regs) :
    (commitPack w r).msg = messageOf (BitVec.ofNat 64 (epochOf (timeMs r).toNat / w)) := by simp only [commitPack]
@[simp] theorem commitPack_digest (w : Nat) (r : Regs) :
    (commitPack w r).digest = r.digest := by simp only [commitPack]
@[simp] theorem commitPack_key (w : Nat) (r : Regs) : (commitPack w r).key = r.key := by simp only [commitPack]
@[simp] theorem commitPack_secret (w : Nat) (r : Regs) :
    (commitPack w r).secret = r.secret := by simp only [commitPack]

/-! ### commitTrem -/

@[simp] theorem commitTrem_window (w : Nat) (r : Regs) :
    (commitTrem w r).window = r.window := by simp only [commitTrem]
@[simp] theorem commitTrem_timeLo (w : Nat) (r : Regs) :
    (commitTrem w r).timeLo = r.timeLo := by simp only [commitTrem]
@[simp] theorem commitTrem_timeHi (w : Nat) (r : Regs) :
    (commitTrem w r).timeHi = r.timeHi := by simp only [commitTrem]
@[simp] theorem commitTrem_secretLen (w : Nat) (r : Regs) :
    (commitTrem w r).secretLen = r.secretLen := by simp only [commitTrem]
@[simp] theorem commitTrem_keyLen (w : Nat) (r : Regs) :
    (commitTrem w r).keyLen = r.keyLen := by simp only [commitTrem]
@[simp] theorem commitTrem_capHint (w : Nat) (r : Regs) :
    (commitTrem w r).capHint = r.capHint := by simp only [commitTrem]
@[simp] theorem commitTrem_rcnt (w : Nat) (r : Regs) : (commitTrem w r).rcnt = r.rcnt := by simp only [commitTrem]
@[simp] theorem commitTrem_rbits (w : Nat) (r : Regs) : (commitTrem w r).rbits = r.rbits := by simp only [commitTrem]
@[simp] theorem commitTrem_nvalid (w : Nat) (r : Regs) :
    (commitTrem w r).nvalid = r.nvalid := by simp only [commitTrem]
@[simp] theorem commitTrem_valid (w : Nat) (r : Regs) : (commitTrem w r).valid = r.valid := by simp only [commitTrem]
@[simp] theorem commitTrem_epoch (w : Nat) (r : Regs) :
    (commitTrem w r).epoch = BitVec.ofNat 64 (epochOf (timeMs r).toNat) := by simp only [commitTrem]
@[simp] theorem commitTrem_counter (w : Nat) (r : Regs) :
    (commitTrem w r).counter = r.counter := by simp only [commitTrem]
@[simp] theorem commitTrem_offset (w : Nat) (r : Regs) :
    (commitTrem w r).offset = r.offset := by simp only [commitTrem]
@[simp] theorem commitTrem_binary (w : Nat) (r : Regs) :
    (commitTrem w r).binary = r.binary := by simp only [commitTrem]
@[simp] theorem commitTrem_otp (w : Nat) (r : Regs) : (commitTrem w r).otp = r.otp := by simp only [commitTrem]
@[simp] theorem commitTrem_trem (w : Nat) (r : Regs) :
    (commitTrem w r).trem = BitVec.ofNat 32 (timeRemaining w (epochOf (timeMs r).toNat)) := by simp only [commitTrem]
@[simp] theorem commitTrem_code (w : Nat) (r : Regs) : (commitTrem w r).code = r.code := by simp only [commitTrem]
@[simp] theorem commitTrem_msg (w : Nat) (r : Regs) : (commitTrem w r).msg = r.msg := by simp only [commitTrem]
@[simp] theorem commitTrem_digest (w : Nat) (r : Regs) :
    (commitTrem w r).digest = r.digest := by simp only [commitTrem]
@[simp] theorem commitTrem_key (w : Nat) (r : Regs) : (commitTrem w r).key = r.key := by simp only [commitTrem]
@[simp] theorem commitTrem_secret (w : Nat) (r : Regs) :
    (commitTrem w r).secret = r.secret := by simp only [commitTrem]

/-! ### commitDigest -/

@[simp] theorem commitDigest_window (d : List Byte) (r : Regs) :
    (commitDigest d r).window = r.window := by simp only [commitDigest]
@[simp] theorem commitDigest_timeLo (d : List Byte) (r : Regs) :
    (commitDigest d r).timeLo = r.timeLo := by simp only [commitDigest]
@[simp] theorem commitDigest_timeHi (d : List Byte) (r : Regs) :
    (commitDigest d r).timeHi = r.timeHi := by simp only [commitDigest]
@[simp] theorem commitDigest_secretLen (d : List Byte) (r : Regs) :
    (commitDigest d r).secretLen = r.secretLen := by simp only [commitDigest]
@[simp] theorem commitDigest_keyLen (d : List Byte) (r : Regs) :
    (commitDigest d r).keyLen = r.keyLen := by simp only [commitDigest]
@[simp] theorem commitDigest_capHint (d : List Byte) (r : Regs) :
    (commitDigest d r).capHint = r.capHint := by simp only [commitDigest]
@[simp] theorem commitDigest_rcnt (d : List Byte) (r : Regs) :
    (commitDigest d r).rcnt = r.rcnt := by simp only [commitDigest]
@[simp] theorem commitDigest_rbits (d : List Byte) (r : Regs) :
    (commitDigest d r).rbits = r.rbits := by simp only [commitDigest]
@[simp] theorem commitDigest_nvalid (d : List Byte) (r : Regs) :
    (commitDigest d r).nvalid = r.nvalid := by simp only [commitDigest]
@[simp] theorem commitDigest_valid (d : List Byte) (r : Regs) :
    (commitDigest d r).valid = r.valid := by simp only [commitDigest]
@[simp] theorem commitDigest_epoch (d : List Byte) (r : Regs) :
    (commitDigest d r).epoch = r.epoch := by simp only [commitDigest]
@[simp] theorem commitDigest_counter (d : List Byte) (r : Regs) :
    (commitDigest d r).counter = r.counter := by simp only [commitDigest]
@[simp] theorem commitDigest_offset (d : List Byte) (r : Regs) :
    (commitDigest d r).offset = r.offset := by simp only [commitDigest]
@[simp] theorem commitDigest_binary (d : List Byte) (r : Regs) :
    (commitDigest d r).binary = r.binary := by simp only [commitDigest]
@[simp] theorem commitDigest_otp (d : List Byte) (r : Regs) :
    (commitDigest d r).otp = r.otp := by simp only [commitDigest]
@[simp] theorem commitDigest_trem (d : List Byte) (r : Regs) :
    (commitDigest d r).trem = r.trem := by simp only [commitDigest]
@[simp] theorem commitDigest_code (d : List Byte) (r : Regs) :
    (commitDigest d r).code = r.code := by simp only [commitDigest]
@[simp] theorem commitDigest_msg (d : List Byte) (r : Regs) :
    (commitDigest d r).msg = r.msg := by simp only [commitDigest]
@[simp] theorem commitDigest_digest (d : List Byte) (r : Regs) :
    (commitDigest d r).digest = Vector.ofFn fun i => byteAt d i.val := by simp only [commitDigest]
@[simp] theorem commitDigest_key (d : List Byte) (r : Regs) :
    (commitDigest d r).key = r.key := by simp only [commitDigest]
@[simp] theorem commitDigest_secret (d : List Byte) (r : Regs) :
    (commitDigest d r).secret = r.secret := by simp only [commitDigest]

/-! ### commitTrunc -/

@[simp] theorem commitTrunc_window (r : Regs) : (commitTrunc r).window = r.window := by simp only [commitTrunc]
@[simp] theorem commitTrunc_timeLo (r : Regs) : (commitTrunc r).timeLo = r.timeLo := by simp only [commitTrunc]
@[simp] theorem commitTrunc_timeHi (r : Regs) : (commitTrunc r).timeHi = r.timeHi := by simp only [commitTrunc]
@[simp] theorem commitTrunc_secretLen (r : Regs) :
    (commitTrunc r).secretLen = r.secretLen := by simp only [commitTrunc]
@[simp] theorem commitTrunc_keyLen (r : Regs) : (commitTrunc r).keyLen = r.keyLen := by simp only [commitTrunc]
@[simp] theorem commitTrunc_capHint (r : Regs) : (commitTrunc r).capHint = r.capHint := by simp only [commitTrunc]
@[simp] theorem commitTrunc_rcnt (r : Regs) : (commitTrunc r).rcnt = r.rcnt := by simp only [commitTrunc]
@[simp] theorem commitTrunc_rbits (r : Regs) : (commitTrunc r).rbits = r.rbits := by simp only [commitTrunc]
@[simp] theorem commitTrunc_nvalid (r : Regs) : (commitTrunc r).nvalid = r.nvalid := by simp only [commitTrunc]
@[simp] theorem commitTrunc_valid (r : Regs) : (commitTrunc r).valid = r.valid := by simp only [commitTrunc]
@[simp] theorem commitTrunc_epoch (r : Regs) : (commitTrunc r).epoch = r.epoch := by simp only [commitTrunc]
@[simp] theorem commitTrunc_counter (r : Regs) : (commitTrunc r).counter = r.counter := by simp only [commitTrunc]
@[simp] theorem commitTrunc_offset (r : Regs) :
    (commitTrunc r).offset = truncOffsetOf (digestBytes r) := by simp only [commitTrunc]
@[simp] theorem commitTrunc_binary (r : Regs) :
    (commitTrunc r).binary = truncBinary (digestBytes r) (truncOffsetOf (digestBytes r)).toNat := by
  simp only [commitTrunc]
@[simp] theorem commitTrunc_otp (r : Regs) :
    (commitTrunc r).otp =
      BitVec.ofNat 20 (otpOf (truncBinary (digestBytes r) (truncOffsetOf (digestBytes r)).toNat)) := by
  simp only [commitTrunc]
@[simp] theorem commitTrunc_trem (r : Regs) : (commitTrunc r).trem = r.trem := by simp only [commitTrunc]
@[simp] theorem commitTrunc_code (r : Regs) :
    (commitTrunc r).code = codeOf (otpOf (truncBinary (digestBytes r) (truncOffsetOf (digestBytes r)).toNat)) := by
  simp only [commitTrunc]
@[simp] theorem commitTrunc_msg (r : Regs) : (commitTrunc r).msg = r.msg := by simp only [commitTrunc]
@[simp] theorem commitTrunc_digest (r : Regs) : (commitTrunc r).digest = r.digest := by simp only [commitTrunc]
@[simp] theorem commitTrunc_key (r : Regs) : (commitTrunc r).key = r.key := by simp only [commitTrunc]
@[simp] theorem commitTrunc_secret (r : Regs) : (commitTrunc r).secret = r.secret := by simp only [commitTrunc]

end Sys2Proof.Machine
end

