-- ==== Sys2Proof/Laws/Time.lean ====
section
/-! SUPPORT. TIME_MS as a number, and the bounds of the epoch. -/

namespace Sys2Proof.Machine

/-- The 64-bit TIME_MS is TIME_HI × 2^32 + TIME_LO. -/
theorem timeMs_toNat (r : Regs) : (timeMs r).toNat = hostTime r := by
  unfold timeMs hostTime
  rw [BitVec.toNat_append, ← Nat.shiftLeft_add_eq_or_of_lt r.timeLo.isLt, Nat.shiftLeft_eq]

/-- The epoch of a 64-bit time is below 2^55. -/
theorem epochOf_timeMs_lt (r : Regs) : epochOf (timeMs r).toNat < 2 ^ 55 := by
  have := (timeMs r).isLt
  unfold epochOf
  split <;> omega

/-- Nothing of the epoch is lost in its 64-bit register. -/
theorem epoch_toNat (r : Regs) :
    (BitVec.ofNat 64 (epochOf (timeMs r).toNat)).toNat = epochOf (timeMs r).toNat := by
  have := epochOf_timeMs_lt r
  rw [BitVec.toNat_ofNat, Nat.mod_eq_of_lt (by omega)]

/-- Nothing of the counter is lost in its 64-bit register. -/
theorem counter_toNat (r : Regs) (w : Nat) :
    (BitVec.ofNat 64 (epochOf (timeMs r).toNat / w)).toNat = epochOf (timeMs r).toNat / w := by
  have := epochOf_timeMs_lt r
  have := Nat.div_le_self (epochOf (timeMs r).toNat) w
  rw [BitVec.toNat_ofNat, Nat.mod_eq_of_lt (by omega)]

end Sys2Proof.Machine
end

