-- ==== Sys2Proof/Tests/Slice0.lean ====
section
/-! SUPPORT. Small tests: the well-formedness checks, the encodings written out bit by bit, one step of every command
on the vectors of 95_test_vectors.md, the register window, and a witness for every statement with hypotheses. -/

open Sys2Proof Sys2Proof.Machine

namespace Sys2Proof.Tests

/-! ### Helpers -/

/-- A small legal instance: SECRET_CAP 32, KEY_CAP 20. -/
def small (b : Backend) : Params := { secretCap := 32, backend := b }

/-- The registers after reset with the secret string `s` presented and KEY all 0xAA. -/
def regsWith (s : List Byte) : Regs :=
  { Regs.afterReset (small .internal) 0 with
    secret := s ++ List.replicate (32 - s.length) 0
    secretLen := BitVec.ofNat 32 s.length
    key := List.replicate 20 0xAA }

/-- An idle machine with the secret string `s`. -/
def idle (s : List Byte) : State := { State.reset with params := small .internal, regs := regsWith s }

/-- An idle machine with a time, a window and the secret string `s`. -/
def timed (s : List Byte) (ms : BitVec 64) (w : Word) : State :=
  { idle s with regs := { regsWith s with timeLo := loWord ms, timeHi := hiWord ms, window := w } }

/-- An idle machine with the key `k` and the message `m`. -/
def keyed (k : List Byte) (m : Vector Byte 8) : State :=
  { idle [] with regs := { regsWith [] with
      key := k ++ List.replicate (20 - k.length) 0, keyLen := BitVec.ofNat 32 k.length, msg := m } }

/-- An idle machine with the digest `d`. -/
def digested (d : Vector Byte 20) : State := { idle [] with regs := { regsWith [] with digest := d } }

/-- The same machine with an EXTERNAL library whose next answer is `b`. -/
def library (b : Bool) (s : State) : State :=
  { s with params := small .external, outside := { s.outside with library := [b] } }

/-- The same machine with these host actions to come. -/
def facing (s : State) (es : List HostEvent) : State := withInputs s es

/-- The same machine running `op` with `n` steps to go. -/
def running (op : Op) (n : Nat) (s : State) : State := { s with seq := .run op n, status := s.status.accepted }

/-- What `f` sees in a next state. -/
def after {α : Type} (o : Host.Outcome State Fault Refusal) (f : State → α) : Option α :=
  match o with
  | .next t => some (f t)
  | .fault _ | .refused _ => none

/-- "JBSW-Y3DP" -/
def jbsw : List Byte := [0x4A, 0x42, 0x53, 0x57, 0x2D, 0x59, 0x33, 0x44, 0x50]

/-- "MZXW6===" -/
def mzxw : List Byte := [0x4D, 0x5A, 0x58, 0x57, 0x36, 0x3D, 0x3D, 0x3D]

/-- "GEZDGNBVGY3TQOJQGEZDGNBVGY3TQOJQ" -/
def rfcSecret : List Byte :=
  [0x47, 0x45, 0x5A, 0x44, 0x47, 0x4E, 0x42, 0x56, 0x47, 0x59, 0x33, 0x54, 0x51, 0x4F, 0x4A, 0x51,
    0x47, 0x45, 0x5A, 0x44, 0x47, 0x4E, 0x42, 0x56, 0x47, 0x59, 0x33, 0x54, 0x51, 0x4F, 0x4A, 0x51]

/-- "12345678901234567890" -/
def rfcKey : List Byte :=
  [0x31, 0x32, 0x33, 0x34, 0x35, 0x36, 0x37, 0x38, 0x39, 0x30, 0x31, 0x32, 0x33, 0x34, 0x35, 0x36, 0x37, 0x38, 0x39, 0x30]

/-- The digest of RFC 6238 at T = 59 (95_test_vectors.md 1.1). -/
def rfcDigest : List Byte :=
  [0x75, 0xA4, 0x8A, 0x19, 0xD4, 0xCB, 0xE1, 0x00, 0x64, 0x4E, 0x8A, 0xC1, 0x39, 0x7E, 0xEA, 0x74, 0x7A, 0x2D, 0x33, 0xAB]

/-! ### WellFormed: every check refuses an ill-formed term -/

theorem test_wf_params_refuses_7 : Params.wf { secretCap := 7, backend := .internal } = false := by decide
theorem test_wf_params_refuses_257 : Params.wf { secretCap := 257, backend := .external } = false := by decide
theorem test_wf_params_accepts_bounds :
    Params.wf { secretCap := 8, backend := .internal } = true ∧
      Params.wf { secretCap := 256, backend := .external } = true := by decide
theorem test_wf_access_refuses_narrow :
    Access.wf { dir := .read, width := .half, offset := 0x008, data := 0 } = false := by decide
theorem test_wf_access_refuses_misaligned :
    Access.wf { dir := .read, width := .word, offset := 0x00A, data := 0 } = false := by decide
theorem test_wf_reg_refuses_past_the_buffers :
    Reg.wf (small .internal) (.key 20) = false ∧ Reg.wf (small .internal) (.secret 32) = false := by decide
theorem test_wf_event_refuses_bad_access :
    HostEvent.wf (.access { dir := .write, width := .byte, offset := 0, data := 0 }) = false := by decide
theorem test_wf_line_refuses_misaligned_offset : AsmLine.wf (small .internal) (.rd 0x002) = false := by decide
theorem test_wf_line_refuses_long_secret :
    AsmLine.wf (small .internal) (.setsecret (List.replicate 33 0x41)) = false := by decide
theorem test_wf_every_command : ∀ i : Instr, i.wf = true := by intro i; cases i <;> decide

/-! ### Decode: the words of 30_encoding.md R80 and R81, MBZ [31:4] and OP [3:0] bit by bit -/

theorem test_word_decode : decode 0b0000000000000000000000000000_0001#32 = .ok .decode := by decide
theorem test_word_validate : decode 0b0000000000000000000000000000_0010#32 = .ok .validate := by decide
theorem test_word_pack : decode 0b0000000000000000000000000000_0011#32 = .ok .pack := by decide
theorem test_word_hmac : decode 0b0000000000000000000000000000_0100#32 = .ok .hmac := by decide
theorem test_word_trunc : decode 0b0000000000000000000000000000_0101#32 = .ok .trunc := by decide
theorem test_word_trem : decode 0b0000000000000000000000000000_0110#32 = .ok .trem := by decide
theorem test_word_generate : decode 0b0000000000000000000000000000_0111#32 = .ok .generate := by decide
theorem test_word_clear : decode 0b0000000000000000000000000000_1000#32 = .ok .clear := by decide
theorem test_word_nop_is_reserved : decode 0x00000000 = .error (.reservedOp 0) := by decide
theorem test_word_nine_is_reserved : decode 0x00000009 = .error (.reservedOp 9) := by decide
theorem test_word_bit4_is_reserved : decode 0x00000011 = .error (.mbzSet 1) := by decide
theorem test_word_bit31_is_reserved : decode 0x80000007 = .error (.mbzSet 0x8000000) := by decide
theorem test_word_encode : encode .generate = 0x00000007 ∧ encode .clear = 0x00000008 := by decide

/-! ### The commands, on the vectors of 95_test_vectors.md -/

/-- 2.1, row "JBSW-Y3DP": KEY "Hello", KEY_LEN 5, CAP_HINT 5, DEC_RESID 0, DEC_NVALID 8. -/
theorem test_decode_skips_the_dash :
    after (exec .decode (idle jbsw)) (fun t => (t.regs.key.take 5, t.regs.keyLen, t.regs.capHint, readReg t .decResid,
      t.regs.nvalid)) = some ([0x48, 0x65, 0x6C, 0x6C, 0x6F], 5, 5, 0, 8) := by decide +kernel

/-- 2.1, row "MZXW6===": KEY "foo", DEC_RESID 0x001, DEC_NVALID 5; KEY[3] keeps its byte (10_state.md R41). -/
theorem test_decode_leaves_the_rest_of_the_key :
    after (exec .decode (idle mzxw)) (fun t => (t.regs.key.take 4, t.regs.keyLen, readReg t .decResid, t.regs.nvalid)) =
      some ([0x66, 0x6F, 0x6F, 0xAA], 3, 0x001, 5) := by decide +kernel

/-- 2.2, row "JBSW-Y3DP". -/
theorem test_validate_rejects_the_dash :
    after (exec .validate (idle jbsw)) (fun t => (t.regs.valid, t.status.word)) = some (false, 2) := by decide +kernel

/-- 2.2, row "AB= =". -/
theorem test_validate_strips_space_in_padding :
    after (exec .validate (idle [0x41, 0x42, 0x3D, 0x20, 0x3D])) (fun t => t.regs.valid) = some true := by decide +kernel

/-- 2.3, row 2^64 − 1 with WINDOW 30. -/
theorem test_pack_largest_time :
    after (exec .pack (timed [] 0xFFFFFFFFFFFFFFFF 30)) (fun t => (t.regs.epoch, t.regs.counter, t.regs.msg.toList)) =
      some (0x004189374BC6A7F0, 614891469123651, [0x00, 0x02, 0x2F, 0x3D, 0x93, 0x97, 0xB0, 0x43]) := by decide +kernel

/-- 2.3, row WINDOW 0: STATUS 0x32 and nothing else. -/
theorem test_pack_window_zero :
    after (exec .pack (timed [] 59000 0)) (fun t => (t.status.word, t.regs.epoch, t.regs.counter)) =
      some (0x32, 0, 0) := by decide +kernel

/-- 2.4, the RFC key with counter 1. -/
theorem test_hmac_rfc_key :
    after (exec .hmac (keyed rfcKey #v[0, 0, 0, 0, 0, 0, 0, 1])) (fun t => (t.regs.digest.toList, t.status.word)) =
      some (rfcDigest, 2) := by decide +kernel

/-- 2.4, "Empty key": STATUS 0x12 and DIGEST unchanged. -/
theorem test_hmac_empty_key :
    after (exec .hmac (keyed [] (Vector.replicate 8 0))) (fun t => (t.regs.digest.toList, t.status.word)) =
      some (List.replicate 20 0, 0x12) := by decide +kernel

/-- 2.4, "aa × 65": the key is hashed first (HMAC-SHA1 alone; its OTP is 732918). -/
theorem test_hmac_function_long_key :
    (hmacSha1 (List.replicate 65 0xAA) [0, 0, 0, 0, 0, 0, 0, 1]).take 4 = [0x12, 0x9B, 0xD7, 0x92] := by decide +kernel

/-- 2.4, "SHA-1 alone": SHA1("abc"). -/
theorem test_sha1_abc :
    sha1 [0x61, 0x62, 0x63] = [0xA9, 0x99, 0x3E, 0x36, 0x47, 0x06, 0x81, 0x6A, 0xBA, 0x3E, 0x25, 0x71, 0x78, 0x50,
      0xC2, 0x6C, 0x9C, 0xD0, 0xD8, 0x9D] := by decide +kernel

/-- 2.5, row ff × 20: offset 15, bit 31 masked, code "483647". -/
theorem test_trunc_all_ones :
    after (exec .trunc (digested (Vector.replicate 20 0xFF))) (fun t => (t.regs.offset, t.regs.binary, t.regs.otp,
      t.regs.code.toList)) = some (15, 0x7FFFFFFF, 483647, [0x34, 0x38, 0x33, 0x36, 0x34, 0x37]) := by decide +kernel

/-- 2.5, row 80 00 0f 42 0f at the end: the first byte is masked, code "003906". -/
theorem test_trunc_masks_the_first_byte :
    after (exec .trunc (digested #v[0, 0, 0, 0, 0, 0, 0, 0, 0, 0, 0, 0, 0, 0, 0, 0x80, 0x00, 0x0F, 0x42, 0x0F]))
      (fun t => (t.regs.otp, t.regs.code.toList)) = some (3906, [0x30, 0x30, 0x33, 0x39, 0x30, 0x36]) := by
  decide +kernel

/-- 2.7, row 2^64 − 1 with WINDOW 0xFFFFFFFF. -/
theorem test_trem_largest_operands :
    after (exec .trem (timed [] 0xFFFFFFFFFFFFFFFF 0xFFFFFFFF)) (fun t => t.regs.trem) = some 3019362008 := by
  decide +kernel

/-- 2.7, row 29500 with WINDOW 30: the tie rounds up, and the first second gives 30; COUNTER is not written. -/
theorem test_trem_first_second :
    after (exec .trem (timed [] 29500 30)) (fun t => (t.regs.epoch, t.regs.trem, t.regs.counter)) =
      some (30, 30, 0) := by decide +kernel

/-- 1.1, T = 59: code "287082". -/
theorem test_generate_rfc6238 :
    after (exec .generate (timed rfcSecret 59000 30)) (fun t => (t.status.word, t.regs.counter, t.regs.offset,
      t.regs.binary, t.regs.code.toList)) =
      some (2, 1, 11, 0x41397EEA, [0x32, 0x38, 0x37, 0x30, 0x38, 0x32]) := by decide +kernel

/-- 2.6, last row: HASH_FAILURE leaves stages 1 and 2. -/
theorem test_generate_library_fails :
    after (exec .generate (library false (timed rfcSecret 59000 30))) (fun t => (t.status.word, t.regs.keyLen,
      t.regs.counter, t.regs.msg.toList, t.regs.digest.toList)) =
      some (0x22, 20, 1, [0, 0, 0, 0, 0, 0, 0, 1], List.replicate 20 0) := by decide +kernel

/-- 2.8: CLEAR on STATUS 0x102 leaves 0x002. -/
theorem test_clear :
    after (exec .clear { idle [] with status := { busy := false, done := true, result := .ok, errBusy := true } })
      (fun t => t.status.word) = some 2 := by decide +kernel

/-- 2.8: the word 0x80000007 on STATUS 0x102 leaves 0x142. -/
theorem test_reserved_word :
    after (step (State.withFetchWord { idle [] with
      status := { busy := false, done := true, result := .ok, errBusy := true } } 32 0x80000007))
      (fun t => t.status.word) = some 0x142 := by decide +kernel

/-! ### The register window, on 95_test_vectors.md section 2.9, and the protocol -/

theorem test_read_id :
    after (step (facing (idle []) [rdReg .id])) (fun t => t.outside.reads) =
      some [{ offset := 0x000, value := 0x544F5450 }] := by decide +kernel

theorem test_write_secret_len_clamps :
    after (step (facing (idle []) [wrReg .secretLen 0xFFFFFFFF])) (fun t => t.regs.secretLen) = some 32 := by
  decide +kernel

theorem test_write_key_len_clamps :
    after (step (facing (idle []) [wrReg .keyLen 0xFFFFFFFF])) (fun t => t.regs.keyLen) = some 20 := by decide +kernel

theorem test_write_msg_keeps_the_low_byte :
    after (step (facing (idle []) [wrReg (.msg 0) 0x1234])) (fun t => readWindow t 0x080) = some 0x34 := by
  decide +kernel

theorem test_write_read_only :
    step (facing (idle []) [wrReg .otp 5]) = .next (facing (idle []) []) := by rfl

theorem test_unmapped_offset :
    after (step (facing (idle []) [wrEvent 0x3FC 1])) (fun t => readWindow t 0x3FC) = some 0 := by decide +kernel

theorem test_narrow_access_faults :
    step (facing (idle []) [.access { dir := .read, width := .half, offset := 0x008, data := 0 }]) =
      .fault (.badAccess { dir := .read, width := .half, offset := 0x008, data := 0 }) := by rfl

theorem test_write_while_busy :
    after (step (facing (running (.cmd .generate) 1 (idle [])) [wrReg .window 5])) (fun t => (t.status.word,
      t.regs.window, t.seq)) = some (0x101, 30, .run (.cmd .generate) 0) := by decide +kernel

theorem test_acceptance_keeps_the_result :
    after (step (facing { idle [] with status := { busy := false, done := true, result := .badWindow, errBusy := false } }
      [wrReg .cmd 7])) (fun t => t.status.word) = some 0x31 := by decide +kernel

theorem test_wait_ends_when_not_busy :
    after (step (facing (idle []) [.wait])) (fun t => (t.outside.inputs, t.outside.reads)) =
      some ([], [{ offset := 0x008, value := 0 }]) := by decide +kernel

theorem test_setsecret_expands :
    assemble [.setsecret [0x41], .setwindow 5] =
      [wrEvent 0x800 0x41, wrEvent 0x018 1, wrEvent 0x00C 5] := by decide

/-- 1.1, T = 20000000000: EPOCH_HI 4 and EPOCH_LO 20000000000 − 4 × 2^32, COUNTER 0x27BC86AA. -/
theorem test_read_halves :
    after (exec .pack (timed [] 20000000000000 30)) (fun t => (readWindow t 0x030, readWindow t 0x034, readWindow t 0x038,
      readWindow t 0x03C)) = some (2820130816, 4, 0x27BC86AA, 0) := by decide +kernel

/-- The command that withFetchWord places is the first to run after reset, for every row of the opcode table. -/
theorem test_first_command_after_reset (i : Instr) :
    step (State.reset.withFetchWord 32 (encode i).toNat) = exec i (State.reset.withFetchWord 32 (encode i).toNat) := by
  cases i <;> rfl

/-! ### Witnesses: for every statement with hypotheses, operands that meet all of them together -/

/-- A computed outcome is a next state with the property computed. -/
theorem after_eq_some {α : Type} {o : Host.Outcome State Fault Refusal} {f : State → α} {v : α}
    (h : after o f = some v) : ∃ t, o = .next t ∧ f t = v := by
  cases o with
  | next t => exact ⟨t, rfl, by simpa [after] using h⟩
  | fault r => cases h
  | refused r => cases h

/-- The registers with no secret string presented meet the invariant. -/
theorem test_empty_regs_inv : RegsInv (small .internal) (regsWith []) :=
  ⟨rfl, rfl, by decide, by decide, by decide, by decide, by decide, by decide, by decide, by decide, by decide,
    .inr ⟨rfl, rfl, rfl⟩⟩

/-- The registers with a secret string presented that fits meet the invariant. -/
theorem test_regs_inv (s : List Byte) (h : s.length ≤ 32) : RegsInv (small .internal) (regsWith s) := by
  have hl : (regsWith s).secretLen.toNat = s.length := by
    show (BitVec.ofNat 32 s.length).toNat = _
    rw [BitVec.toNat_ofNat, Nat.mod_eq_of_lt (by omega)]
  have hs : (regsWith s).secret.length = 32 := by
    show (s ++ List.replicate (32 - s.length) 0).length = 32
    simp only [List.length_append, List.length_replicate]
    omega
  have e := test_empty_regs_inv
  exact ⟨rfl, hs, hl.trans_le h, e.keyLenLegal, e.hintLegal, e.nvalidLegal, e.residualCount, e.residualBits, e.epochBound,
    e.counterBound, e.otpReduced, e.codeSpelled⟩

/-- Machines with these registers, at any time and window, with any message, meet the invariant. -/
theorem test_timed_inv {s : List Byte} (h : s.length ≤ 32) (b : Backend) (o : Outside) (ms : BitVec 64) (w : Word)
    (m : Vector Byte 8) :
    Inv { timed s ms w with params := small b, outside := o, regs := { (timed s ms w).regs with msg := m } } :=
  have h := test_regs_inv s h
  ⟨rfl, ⟨h.keySize, h.secretSize, h.secretLenLegal, h.keyLenLegal, h.hintLegal, h.nvalidLegal, h.residualCount,
    h.residualBits, h.epochBound, h.counterBound, h.otpReduced, h.codeSpelled⟩, ⟨nofun, fun h => absurd rfl h⟩, nofun⟩

/-- The machine of the RFC secret at T = 59 meets the invariant. -/
theorem test_rfc_inv : Inv (timed rfcSecret 59000 30) :=
  test_timed_inv (s := rfcSecret) (by decide) .internal _ _ _ (Vector.replicate 8 0)

theorem test_witness_ReservedWordChangesOnlyStatus :
    opOf 0x00000009 = .reserved ∧ opOf 0x0000000F = .reserved ∧ opOf 0x00000010 = .reserved ∧ opOf 0 = .reserved ∧
    (idle []).status.busy = false ∧ (running (opOf 9) 0 (idle [])).seq = .run (opOf 9) 0 ∧
    resetPending (running (opOf 9) 0 (idle [])) = false := by
  decide

theorem test_witness_EncodedCommandDecodesBack : Instr.decode.wf = true ∧ Instr.clear.wf = true := by decide

theorem test_witness_RegisterMapRoundTrip :
    (small .internal).wf = true ∧ (Reg.key 19).wf (small .internal) = true ∧
    (Reg.secret 31).wf (small .internal) = true ∧ regAt (small .internal) 0x44C = some (.key 19) ∧
    regAt (small .internal) 0x87C = some (.secret 31) ∧ regAt (small .internal) 0x10C = some (.digest 19) := by decide

/-- The first and the last offset of every range. -/
theorem test_witness_UnlistedOffsetsHoldNoRegister :
    (small .internal).wf = true ∧ regAt (small .internal) 0x068 = none ∧ regAt (small .internal) 0x07F = none ∧
    regAt (small .internal) 0x0A0 = none ∧ regAt (small .internal) 0x0BF = none ∧
    regAt (small .internal) 0x110 = none ∧ regAt (small .internal) 0x3FF = none ∧
    regAt (small .internal) (0x400 + 4 * (small .internal).keyCap) = none ∧ regAt (small .internal) 0x7FF = none ∧
    regAt (small .internal) (0x800 + 4 * (small .internal).secretCap) = none ∧
    regAt (small .internal) 0xFFF = none ∧ regAt (small .internal) 0x00A = none := by decide

theorem test_witness_ResetAbandonsTheRunningOperation :
    (facing (running (.cmd .generate) 0 (idle jbsw)) [.reset, .idle]).outside.inputs = .reset :: [.idle] := rfl

theorem test_witness_CommandWriteIsAccepted :
    (facing (idle []) [wrReg .cmd 7]).seq = .idle ∧ (facing (idle []) [wrReg .cmd 7]).status.busy = false ∧
    (facing (idle []) [wrReg .cmd 7]).outside.inputs = wrReg .cmd 7 :: [] := ⟨rfl, rfl, rfl⟩

theorem test_witness_AcceptedLatencyIsTheNextGiven :
    (idle []).outside.latencies = [] ∧
    { idle [] with outside := { (idle []).outside with latencies := [0] } }.outside.latencies = 0 :: [] := ⟨rfl, rfl⟩

theorem test_witness_StepRunsTheDecodedCommand :
    decode 0x00000007 = .ok .generate ∧ Instr.generate.wf = true ∧
    (running (opOf 7) 0 (idle jbsw)).seq = .run (opOf 7) 0 ∧ resetPending (running (opOf 7) 0 (idle jbsw)) = false := by
  decide

theorem test_witness_PlacedWordIsRunNext : decodeTableWord 32 0x00000001 = some .decode := by decide

theorem test_witness_EveryOperationCompletes :
    (running .reserved 0 (idle [])).seq = .run .reserved 0 ∧ resetPending (running .reserved 0 (idle [])) = false ∧
    Op.reserved ≠ .cmd .clear := by decide

theorem test_witness_NothingChangesBeforeCompletion :
    ∃ t, (running (.cmd .pack) 1 (idle [])).seq = .run (.cmd .pack) (0 + 1) ∧
      (running (.cmd .pack) 1 (idle [])).status.busy = true ∧
      resetPending (running (.cmd .pack) 1 (idle [])) = false ∧ step (running (.cmd .pack) 1 (idle [])) = .next t :=
  ⟨_, rfl, rfl, rfl, rfl⟩

/-- A write to CMD while a GENERATE runs; and a CLEAR that completes. -/
theorem test_witness_WriteWhileBusyIsDropped :
    (facing (running (.cmd .generate) 1 (idle [])) [wrEvent 0x004 8]).seq = .run (.cmd .generate) (0 + 1) ∧
    (facing (running (.cmd .generate) 1 (idle [])) [wrEvent 0x004 8]).status.busy = true ∧
    (facing (running (.cmd .generate) 1 (idle [])) [wrEvent 0x004 8]).outside.inputs = wrEvent 0x004 8 :: [] ∧
    (0x004 : BitVec 12).toNat % 4 = 0 ∧
    ∃ s t : State, step s = .next t ∧ s.status.errBusy = true ∧ t.status.errBusy = false :=
  ⟨rfl, rfl, rfl, rfl,
    running (.cmd .clear) 0 { idle [] with status := { busy := false, done := true, result := .ok, errBusy := true } },
    _, rfl, rfl, rfl⟩

/-- One offset for ID, one for STATUS, one for OTP, one for CMD. -/
theorem test_witness_ReadWhileBusyIsFree :
    (facing (running (.cmd .generate) 1 (idle [])) [rdEvent 0x048]).outside.inputs = rdEvent 0x048 :: [] ∧
    (facing (running (.cmd .generate) 1 (idle [])) [rdEvent 0x048]).seq = .run (.cmd .generate) (0 + 1) ∧
    (facing (running (.cmd .generate) 1 (idle [])) [rdEvent 0x048]).status.busy = true ∧
    (0x048 : BitVec 12).toNat % 4 = 0 ∧ regAt (small .internal) 0x048 = some .otp ∧
    regAt (small .internal) 0x000 = some .id ∧ regAt (small .internal) 0x008 = some .status ∧
    regAt (small .internal) 0x004 = some .cmd := ⟨rfl, rfl, rfl, rfl, rfl, rfl, rfl, rfl⟩

/-- Two transactions during the run, with INTERNAL, and with an EXTERNAL library whose answer is given. -/
theorem test_witness_OperationFinishesAfterItsLatency :
    (idle []).params.backend = .internal ∧ (library true (idle [])).outside.library ≠ [] ∧
    (facing (running (.cmd .hmac) 2 (idle [])) [rdEvent 0x008, wrEvent 0x00C 5]).status.busy = true ∧
    (facing (running (.cmd .hmac) 2 (idle [])) [rdEvent 0x008, wrEvent 0x00C 5]).seq = .run (.cmd .hmac) 2 ∧
    ∀ e ∈ (facing (running (.cmd .hmac) 2 (idle [])) [rdEvent 0x008, wrEvent 0x00C 5]).outside.inputs,
      e.quiet = true := by decide

theorem test_witness_IdleReadReturnsTheRegister :
    (facing (idle jbsw) [rdEvent 0x800]).seq = .idle ∧ (facing (idle jbsw) [rdEvent 0x800]).status.busy = false ∧
    (facing (idle jbsw) [rdEvent 0x800]).outside.inputs = rdEvent 0x800 :: [] ∧ (0x800 : BitVec 12).toNat % 4 = 0 ∧
    regAt (small .internal) 0x800 = some (.secret 0) := by decide

/-- A narrow access, the three misaligned ones beside an aligned offset, and the aligned one. -/
theorem test_witness_OnlyAlignedWordAccessesAreMeaningful :
    (∀ op, (facing (idle []) [rdEvent 0xFFC]).seq ≠ .run op 0) ∧
    (facing (idle []) [rdEvent 0xFFC]).outside.inputs =
      .access { dir := .read, width := .word, offset := 0xFFC, data := 0 } :: [] ∧
    (0xFFC : BitVec 12).toNat % 4 = 0 ∧ (0xFFD : BitVec 12).toNat % 4 ≠ 0 ∧ (0xFFE : BitVec 12).toNat % 4 ≠ 0 ∧
    (0xFFF : BitVec 12).toNat % 4 ≠ 0 ∧ Width.byte ≠ .word :=
  ⟨fun op => nofun, rfl, by decide, by decide, by decide, by decide, by decide⟩

theorem test_witness_UnmappedOffsetReadsZeroIgnoresWrites :
    regAt (idle []).params (0xFFC : BitVec 12).toNat = none ∧ (idle []).status.busy = false ∧
    (running .reserved 1 (idle [])).status.busy = true := by decide

/-- The first and the last read-only register of the map. -/
theorem test_witness_ReadOnlyRegistersIgnoreWrites :
    regAt (idle []).params (0x000 : BitVec 12).toNat = some .id ∧
    regAt (idle []).params (0x064 : BitVec 12).toNat = some (.code 5) ∧ (idle []).status.busy = false ∧
    (running .reserved 1 (idle [])).status.busy = true := by decide

/-- The first register of each byte buffer, and the last KEY and SECRET elements. -/
theorem test_witness_ByteRegistersHoldTheLowByte :
    Inv (timed rfcSecret 59000 30) ∧ regAt (timed rfcSecret 59000 30).params (0x050 : BitVec 12).toNat = some (.code 0) ∧
    regAt (timed rfcSecret 59000 30).params (0x080 : BitVec 12).toNat = some (.msg 0) ∧
    regAt (timed rfcSecret 59000 30).params (0x0C0 : BitVec 12).toNat = some (.digest 0) ∧
    regAt (timed rfcSecret 59000 30).params (0x44C : BitVec 12).toNat = some (.key 19) ∧
    regAt (timed rfcSecret 59000 30).params (0x87C : BitVec 12).toNat = some (.secret 31) ∧
    (Reg.key 19).isByte = true ∧ (Reg.code 0).isByte = true ∧ (timed rfcSecret 59000 30).status.busy = false :=
  ⟨test_rfc_inv, rfl, rfl, rfl, rfl, rfl, rfl, rfl, rfl⟩

theorem test_witness_ScalarRegistersReadBack : (idle jbsw).status.busy = false := rfl

theorem test_witness_WriteLeavesOtherRegistersAlone :
    (idle jbsw).status.busy = false ∧ regAt (idle jbsw).params (0x00C : BitVec 12).toNat ≠ some .cmd ∧
    (0x010 : BitVec 12) ≠ 0x00C := by decide

theorem test_witness_EveryStepKeepsTheInvariant :
    ∃ t, Inv (timed rfcSecret 59000 30) ∧ step (timed rfcSecret 59000 30) = .next t := ⟨_, test_rfc_inv, rfl⟩

theorem test_witness_ResultCodesPerOperation :
    (∃ t, exec .pack (timed [] 0 0) = .next t) ∧ mayResult .external .hmac .hashFailure = true ∧
    ∃ t, execReserved (idle []) = .next t := ⟨⟨_, rfl⟩, rfl, ⟨_, rfl⟩⟩

theorem test_witness_CommandsWriteOnlyTheirRegisters :
    ∃ t, exec .trunc (idle []) = .next t ∧ mayWrite .trunc .window = false ∧ Instr.trunc ≠ .hmac ∧
      Instr.trunc ≠ .generate := ⟨_, rfl, rfl, by decide, by decide⟩

theorem test_witness_OnlyTheHostWritesItsOperands :
    ∃ t, step (facing (idle []) [rdReg .otp]) = .next t ∧ resetPending (facing (idle []) [rdReg .otp]) = false ∧
      ∀ a rest, (facing (idle []) [rdReg .otp]).outside.inputs = .access a :: rest → a.dir ≠ .write :=
  ⟨_, rfl, rfl, by rintro a rest ⟨⟩; decide⟩

theorem test_witness_DecodedKeyFits : Inv (timed rfcSecret 59000 30) := test_rfc_inv

theorem test_witness_DecodeWritesTheDecodedString : Inv (timed rfcSecret 59000 30) := test_rfc_inv

/-- The empty string, and "====". -/
theorem test_witness_NoAlphabetCharacterDecodesToNothing :
    (idle []).regs.secretLen = 0 ∧
    ∀ c ∈ secretString (idle [0x3D, 0x3D, 0x3D, 0x3D]).regs, b32val (upper c) = none := by decide

/-- Two states with one secret and different times; and two runs of one. -/
theorem test_witness_DecodeTwiceIsDecodeOnce :
    (∃ t t', Inv (timed rfcSecret 59000 30) ∧ Inv (timed rfcSecret 0 1) ∧
      secretString (timed rfcSecret 59000 30).regs = secretString (timed rfcSecret 0 1).regs ∧
      exec .decode (timed rfcSecret 59000 30) = .next t ∧ exec .decode (timed rfcSecret 0 1) = .next t') ∧
    ∃ t u, exec .decode (idle jbsw) = .next t ∧ exec .decode t = .next u :=
  ⟨⟨_, _, test_rfc_inv, test_timed_inv (s := rfcSecret) (by decide) .internal _ _ _ (Vector.replicate 8 0), rfl, rfl,
    rfl⟩, _, _, rfl, rfl⟩

/-- "A" is valid and has one alphabet character. -/
theorem test_witness_ValidStringMayDecodeToNothing :
    b32valid (secretString (idle [0x41]).regs) ∧ (alphabetValues (secretString (idle [0x41]).regs)).length = 1 :=
  ⟨⟨[0x41], [], by decide, by decide, by decide, by decide⟩, by decide⟩

/-- "A=" is valid. -/
theorem test_witness_PredicateIsStricterThanDecoder : b32valid [0x41, 0x3D] :=
  ⟨[0x41], [0x3D], by decide, by decide, by decide, by decide⟩

theorem test_witness_PackComputesTheCounter :
    (timed [] 59000 1).regs.window ≠ 0 ∧ (timed [] 59000 0).regs.window = 0 := by decide

theorem test_witness_HighMessageBytesAreZero :
    ∃ t, (timed [] 4294967296000 1).regs.window ≠ 0 ∧ exec .pack (timed [] 4294967296000 1) = .next t :=
  ⟨_, by decide, rfl⟩

theorem test_witness_EpochRoundsToNearest : 18446744073709551615 < 2 ^ 64 := by decide

/-- EPOCH 60, the first of window 2, and 89, its last; and 29500 and 30499, the ends of the rounded second 30. -/
theorem test_witness_CounterFollowsTheWindow :
    (∃ t t', (timed [] 60000 30).regs.window ≠ 0 ∧ (timed [] 89000 30).regs.window = (timed [] 60000 30).regs.window ∧
      exec .pack (timed [] 60000 30) = .next t ∧ exec .pack (timed [] 89000 30) = .next t' ∧
      hostTime (timed [] 60000 30).regs ≤ hostTime (timed [] 89000 30).regs ∧ t.regs.epoch.toNat = 2 * 30 ∧
      t'.regs.epoch.toNat = 2 * 30 + 30 - 1) ∧
    1000 * 30 ≤ hostTime (timed [] 29500 30).regs + 500 ∧ hostTime (timed [] 29500 30).regs ≤ 1000 * 30 + 499 ∧
    1000 * 30 ≤ hostTime (timed [] 30499 30).regs + 500 ∧ hostTime (timed [] 30499 30).regs ≤ 1000 * 30 + 499 :=
  ⟨⟨_, _, by decide, rfl, rfl, rfl, by decide, by decide +kernel, by decide +kernel⟩, by decide, by decide, by decide,
    by decide⟩

theorem test_witness_TremStoresTheSecondsLeft :
    (timed [] 59000 1).regs.window ≠ 0 ∧ (timed [] 59000 0).regs.window = 0 := by decide

theorem test_witness_TremAndPackAgree :
    ∃ t u g, (timed rfcSecret 59000 30).regs.window ≠ 0 ∧ exec .pack (timed rfcSecret 59000 30) = .next t ∧
      exec .trem (timed rfcSecret 59000 30) = .next u ∧
      exec .generate (timed rfcSecret 59000 30) = .next g ∧ g.status.result = .ok := by
  obtain ⟨g, h, e⟩ := after_eq_some (o := exec .generate (timed rfcSecret 59000 30)) (f := fun t => t.status.result)
    (v := .ok) (by decide +kernel)
  exact ⟨_, _, g, by decide, rfl, rfl, h, e⟩

theorem test_witness_ShaPaddingFillsBlocks : [0x61#8, 0x62#8, 0x63#8].length < 2 ^ 61 := by decide

theorem test_witness_ScheduleFollowsTheRecurrence : (List.replicate 64 (0x36#8)).length = 64 := by decide

theorem test_witness_TrailingZeroKeysAgree : [0x48#8, 0x65#8, 0x6C#8, 0x6C#8, 0x6F#8].length + 59 ≤ 64 := by decide

/-- An empty key; a key with INTERNAL, with a library that answers, and with one that fails. -/
theorem test_witness_HmacStoresTheDigest :
    (keyed [] (Vector.replicate 8 0)).regs.keyLen = 0 ∧ (keyed [1] (Vector.replicate 8 0)).regs.keyLen ≠ 0 ∧
    (keyed [1] (Vector.replicate 8 0)).params.backend = .internal ∧
    (drawLibrary (library true (keyed [1] (Vector.replicate 8 0))).outside).1 = true ∧
    (library false (keyed [1] (Vector.replicate 8 0))).params.backend = .external ∧
    (drawLibrary (library false (keyed [1] (Vector.replicate 8 0))).outside).1 = false := by decide

/-- Two states with equal operands and different digests before. -/
theorem test_witness_EqualOperandsGiveEqualDigest :
    ∃ s s' t t' : State, s.params.backend = .internal ∧ s'.params.backend = .internal ∧ s.regs.keyLen ≠ 0 ∧
      s.regs.keyLen = s'.regs.keyLen ∧ keyBytes s.regs = keyBytes s'.regs ∧ s.regs.msg = s'.regs.msg ∧
      exec .hmac s = .next t ∧ exec .hmac s' = .next t' ∧ s ≠ s' := by
  refine ⟨keyed [1] (Vector.replicate 8 0),
    { keyed [1] (Vector.replicate 8 0) with status := Status.overrun Status.afterReset }, ?_⟩
  have e : ∀ u : State, u.regs.keyLen ≠ 0 → u.params.backend = .internal →
      exec .hmac u = .next (complete .ok (digestCommitted u)) := fun u h hb => by
    rw [exec_hmac_of_ne h, digestStage_internal hb, Staged.finish_goesOn]
  exact ⟨_, _, rfl, rfl, by decide, rfl, rfl, rfl, e _ (by decide) rfl, e _ (by decide) rfl,
    fun h => absurd (congrArg (fun u => u.status.errBusy) h) (by decide)⟩

theorem test_witness_TruncOutputsInRange :
    ∃ t t', exec .trunc (digested (Vector.replicate 20 0xFF)) = .next t ∧
      exec .trunc { digested (Vector.replicate 20 0xFF) with status := Status.overrun Status.afterReset } = .next t' ∧
      (digested (Vector.replicate 20 0xFF)).regs.digest = Vector.replicate 20 0xFF := ⟨_, _, rfl, rfl, rfl⟩

/-- With INTERNAL and with a library that answers; and a string of exactly two alphabet characters. -/
theorem test_witness_GenerateCompletesWithACode :
    Inv (timed rfcSecret 59000 30) ∧ Inv (library true (timed rfcSecret 59000 30)) ∧ Inv (timed [0x41, 0x42] 59000 1) ∧
    5 * (alphabetValues (secretString (timed rfcSecret 59000 30).regs)).length / 8 ≠ 0 ∧
    5 * (alphabetValues (secretString (timed [0x41, 0x42] 59000 1).regs)).length / 8 ≠ 0 ∧
    (timed rfcSecret 59000 30).regs.window ≠ 0 ∧ (timed [0x41, 0x42] 59000 1).regs.window ≠ 0 ∧
    (timed rfcSecret 59000 30).params.backend = .internal ∧
    (drawLibrary (library true (timed rfcSecret 59000 30)).outside).1 = true :=
  ⟨test_rfc_inv, test_timed_inv (s := rfcSecret) (by decide) .external _ _ _ (Vector.replicate 8 0),
    test_timed_inv (s := [0x41, 0x42]) (by decide) .internal _ _ _ (Vector.replicate 8 0), by decide, by decide, by decide,
    by decide, rfl, rfl⟩

/-- One alphabet character; WINDOW 0; a library that fails; none of the three; each in a state that meets Inv. -/
theorem test_witness_GenerateStopsAtTheFirstFailure :
    (∃ t, Inv (timed [0x41] 59000 0) ∧ exec .generate (timed [0x41] 59000 0) = .next t ∧
      5 * (alphabetValues (secretString (timed [0x41] 59000 0).regs)).length / 8 = 0) ∧
    (∃ t, Inv (timed [0x41, 0x42] 59000 0) ∧ exec .generate (timed [0x41, 0x42] 59000 0) = .next t ∧
      (5 * (alphabetValues (secretString (timed [0x41, 0x42] 59000 0).regs)).length / 8 ≠ 0 ∧
        (timed [0x41, 0x42] 59000 0).regs.window = 0)) ∧
    (∃ t, Inv (library false (timed [0x41, 0x42] 59000 1)) ∧
      exec .generate (library false (timed [0x41, 0x42] 59000 1)) = .next t ∧
      ((timed [0x41, 0x42] 59000 1).regs.window ≠ 0 ∧
        (library false (timed [0x41, 0x42] 59000 1)).params.backend = .external ∧
        (drawLibrary (library false (timed [0x41, 0x42] 59000 1)).outside).1 = false)) ∧
    ∃ t, exec .generate (timed [0x41, 0x42] 59000 1) = .next t ∧
      (timed [0x41, 0x42] 59000 1).params.backend = .internal := by
  have n : ∀ o : Host.Outcome State Fault Refusal, after o (fun _ => ()) = some () → ∃ t, o = .next t := fun o h => by
    obtain ⟨t, e, -⟩ := after_eq_some h
    exact ⟨t, e⟩
  obtain ⟨a, ha⟩ := n (exec .generate (timed [0x41] 59000 0)) (by decide +kernel)
  obtain ⟨b, hb⟩ := n (exec .generate (timed [0x41, 0x42] 59000 0)) (by decide +kernel)
  obtain ⟨c, hc⟩ := n (exec .generate (library false (timed [0x41, 0x42] 59000 1))) (by decide +kernel)
  obtain ⟨d, hd⟩ := n (exec .generate (timed [0x41, 0x42] 59000 1)) (by decide +kernel)
  have i1 := @test_timed_inv [0x41] (by decide) .internal State.reset.outside 59000 0 (Vector.replicate 8 0)
  have i2 := @test_timed_inv [0x41, 0x42] (by decide) .internal State.reset.outside 59000 0 (Vector.replicate 8 0)
  have i3 := @test_timed_inv [0x41, 0x42] (by decide) .external
    (library false (timed [0x41, 0x42] 59000 1)).outside 59000 1 (Vector.replicate 8 0)
  exact ⟨⟨a, i1, ha, by decide⟩, ⟨b, i2, hb, by decide, by decide⟩, ⟨c, i3, hc, by decide, rfl, rfl⟩, ⟨d, hd, rfl⟩⟩

/-- An OK and an EMPTY_KEY outcome. -/
theorem test_witness_GenerateIsTheFourUnitsInSequence :
    (∃ t, exec .generate (timed rfcSecret 59000 30) = .next t ∧ t.status.result = .ok) ∧
    ∃ t, exec .generate (timed [0x41] 59000 30) = .next t ∧ t.status.result = .emptyKey ∧
      (timed [0x41] 59000 30).regs.window ≠ 0 := by
  refine ⟨after_eq_some (f := fun t => t.status.result) (by decide +kernel), ?_⟩
  obtain ⟨t, h, e⟩ := after_eq_some (o := exec .generate (timed [0x41] 59000 30)) (f := fun t => t.status.result)
    (v := .emptyKey) (by decide +kernel)
  exact ⟨t, h, e, by decide⟩

/-- One secret, time and window over two different MSG buffers; and two times of one counter. -/
theorem test_witness_GenerateDependsOnlyOnItsOperands :
    (∃ s s' t t' : State, Inv s ∧ Inv s' ∧ s.params.backend = .internal ∧ s'.params.backend = .internal ∧
      exec .generate s = .next t ∧ exec .generate s' = .next t' ∧ secretString s.regs = secretString s'.regs ∧
      s.regs.timeLo = s'.regs.timeLo ∧ s.regs.timeHi = s'.regs.timeHi ∧ s.regs.window = s'.regs.window ∧
      t.status.result = .ok ∧ s.regs.msg ≠ s'.regs.msg) ∧
    ∃ t t', Inv (timed rfcSecret 30000 30) ∧ Inv (timed rfcSecret 59000 30) ∧
      exec .generate (timed rfcSecret 30000 30) = .next t ∧ exec .generate (timed rfcSecret 59000 30) = .next t' ∧
      (t.status.result = .ok ∧ t.regs.counter = 1 ∧ keyBytes t.regs = rfcKey) ∧
      (t'.status.result = .ok ∧ t'.regs.counter = 1 ∧ keyBytes t'.regs = rfcKey) := by
  obtain ⟨t, h, e⟩ := after_eq_some (o := exec .generate (timed rfcSecret 30000 30))
    (f := fun t => (t.status.result, t.regs.counter, keyBytes t.regs)) (v := (.ok, 1, rfcKey)) (by decide +kernel)
  obtain ⟨t', h', e'⟩ := after_eq_some (o := exec .generate (timed rfcSecret 59000 30))
    (f := fun t => (t.status.result, t.regs.counter, keyBytes t.regs)) (v := (.ok, 1, rfcKey)) (by decide +kernel)
  simp only [Prod.mk.injEq] at e e'
  have inv := fun ms m => test_timed_inv (s := rfcSecret) (by decide) .internal State.reset.outside ms 30 m
  obtain ⟨u, hu, -⟩ := after_eq_some (v := ()) (f := fun _ => ()) (o := exec .generate
    { timed rfcSecret 59000 30 with params := small .internal, outside := State.reset.outside, regs :=
      { (timed rfcSecret 59000 30).regs with msg := Vector.replicate 8 1 } }) (by decide +kernel)
  exact ⟨⟨_, _, t', u, test_rfc_inv, inv 59000 (Vector.replicate 8 1), rfl, rfl, h', hu, rfl, rfl, rfl, rfl, e'.1,
    by decide⟩, t, t', inv 30000 (Vector.replicate 8 0), test_rfc_inv, h, h', e, e'⟩

end Sys2Proof.Tests
end

section
/-! SUPPORT. Reads and writes of the register window, a register at a time: what the address decoder finds, what a
write to a read-only register leaves, and what a byte register holds (10_state.md R23, R43, R44). -/

namespace Sys2Proof.Machine

/-! ### Through the address decoder -/

/-- No scalar register is an element of KEY or SECRET, so every instance has it. -/
theorem scalarAt_wf {off : Nat} {r : Reg} (h : scalarAt off = some r) (p : Params) : r.wf p = true := by
  unfold scalarAt at h
  split at h <;> cases h <;> rfl

/-- The address decoder finds only registers the instance has (10_state.md R23). -/
theorem regAt_wf {p : Params} {off : Nat} {r : Reg} (h : regAt p off = some r) : r.wf p = true := by
  simp only [regAt, Option.orElse_eq_orElse, Option.orElse_eq_or, Option.or_eq_some_iff, Option.map_eq_some_iff] at h
  obtain h | ⟨-, ⟨i, -, rfl⟩ | ⟨-, ⟨i, -, rfl⟩ | ⟨-, ⟨i, -, rfl⟩ | ⟨-, ⟨i, -, rfl⟩ | ⟨-, i, -, rfl⟩⟩⟩⟩⟩ := h
  · exact scalarAt_wf h p
  · rfl
  · rfl
  · rfl
  · exact decide_eq_true i.isLt
  · exact decide_eq_true i.isLt

theorem readWindow_of_regAt {s : State} {off : Nat} {r : Reg} (h : regAt s.params off = some r) :
    readWindow s off = readReg s r := by simp only [readWindow, h]

theorem writeWindow_of_regAt {s : State} {off : Nat} {r : Reg} (h : regAt s.params off = some r) (v : Word) :
    writeWindow s off v = writeReg s r v := by simp only [writeWindow, h]

/-! ### Writes -/

@[simp] theorem writeReg_params (s : State) (r : Reg) (v : Word) : (writeReg s r v).params = s.params := by
  cases r with
  | cmd => exact accept_params v s
  | _ => rfl

/-- A write to any register but CMD is the store of its data, and nothing else. -/
theorem writeReg_of_ne_cmd {r : Reg} (h : r ≠ .cmd) (s : State) (v : Word) :
    writeReg s r v = { s with regs := storeReg s.params s.regs r v } := by
  cases r with
  | cmd => exact absurd rfl h
  | _ => rfl

/-- A read-only register ignores the data (10_state.md R44). -/
theorem storeReg_of_readOnly {r : Reg} (h : r.rights = .readOnly) (p : Params) (rs : Regs) (v : Word) :
    storeReg p rs r v = rs := by
  cases r with
  | cmd | window | timeLo | timeHi | secretLen | keyLen | msg | digest | key | secret => cases h
  | _ => rfl

/-- A write to a read-only register while BUSY = 0 changes nothing (10_state.md R44). -/
theorem hostWrite_of_readOnly {s : State} {off : BitVec 12} {r : Reg} (hb : s.status.busy = false)
    (hr : regAt s.params off.toNat = some r) (ho : r.rights = .readOnly) (v : Word) : hostWrite s off v = s := by
  have hc : r ≠ .cmd := by rintro rfl; cases ho
  rw [hostWrite_of_idle hb, writeWindow_of_regAt hr, writeReg_of_ne_cmd hc, storeReg_of_readOnly ho]

/-! ### Byte registers -/

theorem byteAt_set_self {l : List Byte} {i : Nat} (h : i < l.length) (b : Byte) : byteAt (l.set i b) i = b := by
  simp [byteAt, h]

@[simp] theorem lowByte_toNat (v : Word) : (lowByte v).toNat = v.toNat % 256 := by
  simp [lowByte]

/-- A byte reads zero-extended as the number it is (10_state.md R43). -/
theorem toNat_zeroExtend_byte (b : Byte) : (b.setWidth 32).toNat = b.toNat :=
  BitVec.toNat_setWidth_of_le (by decide)

/-- A byte register reads below 256 (10_state.md R43). -/
theorem readReg_lt_of_isByte {r : Reg} (h : r.isByte = true) (s : State) : (readReg s r).toNat < 256 := by
  have zeroExtended (b : Byte) : (b.setWidth 32).toNat < 256 := (toNat_zeroExtend_byte b).trans_lt b.isLt
  cases r with
  | code | msg | digest | key | secret => exact zeroExtended _
  | _ => cases h

/-- Inside a buffer, the zero-extended `byteAt` is the stored byte as a number. -/
theorem map_toNat_getElem? {l : List Byte} {i : Nat} (h : i < l.length) :
    l[i]?.map BitVec.toNat = some ((byteAt l i).setWidth 32).toNat := by
  rw [toNat_zeroExtend_byte]
  simp [byteAt, h]

/-- KEY holds every element the instance has. -/
theorem RegsInv.lt_key_length {p : Params} {rs : Regs} (h : RegsInv p rs) {i : Nat} (hi : (Reg.key i).wf p = true) :
    i < rs.key.length := h.keySize ▸ of_decide_eq_true hi

/-- SECRET holds every element the instance has. -/
theorem RegsInv.lt_secret_length {p : Params} {rs : Regs} (h : RegsInv p rs) {i : Nat}
    (hi : (Reg.secret i).wf p = true) : i < rs.secret.length := h.secretSize ▸ of_decide_eq_true hi

/-- A byte register the host may write reads back the low byte of the data, zero-extended (10_state.md R43). -/
theorem readReg_writeReg_byte {s : State} (h : RegsInv s.params s.regs) {r : Reg} (hw : r.wf s.params = true)
    (hb : r.isByte = true) (hc : ∀ i, r ≠ .code i) (v : Word) :
    readReg (writeReg s r v) r = (lowByte v).setWidth 32 := by
  cases r with
  | code i => exact absurd rfl (hc i)
  | msg i | digest i => simp only [writeReg, storeReg, readReg, Vector.get_eq_getElem, Vector.getElem_set_self]
  | key i => simp only [writeReg, storeReg, readReg, byteAt_set_self (h.lt_key_length hw)]
  | secret i => simp only [writeReg, storeReg, readReg, byteAt_set_self (h.lt_secret_length hw)]
  | _ => cases hb

end Sys2Proof.Machine
end

section
/-! The statements of 10_state.md on read-only and byte registers. -/

namespace Sys2Proof.Machine

/-- Settles O22: the listed registers are the read-only ones, and a write while BUSY = 1 is dropped anywhere. -/
theorem readOnlyRegistersIgnoreWrites : Obligations.ReadOnlyRegistersIgnoreWrites := by
  unfold Obligations.ReadOnlyRegistersIgnoreWrites
  intro s off v r hr hlist
  have ho : r.rights = .readOnly := by
    obtain rfl | rfl | rfl | rfl | rfl | rfl | rfl | rfl | rfl | rfl | rfl | rfl | rfl | rfl | ⟨i, rfl⟩ := hlist <;> rfl
  exact ⟨fun hb => hostWrite_of_readOnly hb hr ho v, fun hb => hostWrite_of_busy hb off v⟩

/-- Settles O23: a byte register's value is a zero-extended byte of its buffer, and under the invariant the buffer
reaches to every element the address decoder finds. -/
theorem byteRegistersHoldTheLowByte : Obligations.ByteRegistersHoldTheLowByte := by
  unfold Obligations.ByteRegistersHoldTheLowByte
  intro s off v r hinv hr hbyte hb
  have hwf : r.wf s.params = true := regAt_wf hr
  rw [readWindow_of_regAt hr]
  refine ⟨readReg_lt_of_isByte hbyte s, ?code, ?msg, ?digest, ?key, ?secret, ?written, ?ignored⟩
  case code | msg | digest =>
    rintro i rfl
    exact toNat_zeroExtend_byte _
  case key =>
    rintro i rfl
    exact map_toNat_getElem? (hinv.regsLegal.lt_key_length hwf)
  case secret =>
    rintro i rfl
    exact map_toNat_getElem? (hinv.regsLegal.lt_secret_length hwf)
  case written =>
    intro hc
    have hr' : regAt (writeReg s r v).params off.toNat = some r := by rwa [writeReg_params]
    rw [hostWrite_of_idle hb, writeWindow_of_regAt hr, readWindow_of_regAt hr',
      readReg_writeReg_byte hinv.regsLegal hwf hbyte hc, toNat_zeroExtend_byte, lowByte_toNat]
  case ignored =>
    rintro ⟨i, rfl⟩
    exact hostWrite_of_readOnly hb hr rfl v

end Sys2Proof.Machine
end

section
/-! SUPPORT. The command decoder inverts the encoder, and reads nothing else: a word is its two fields, MBZ and OP
(30_encoding.md R80, R81). -/

namespace Sys2Proof

/-- MBZ and OP together are all 32 bits of a command word (R80). -/
theorem mbzField_append_opField (w : Word) : mbzField w ++ opField w = w := by
  calc mbzField w ++ opField w
    _ = w.extractLsb' 0 (28 + 4) := BitVec.extractLsb'_append_extractLsb'_eq_extractLsb' rfl
    _ = w := BitVec.extractLsb'_eq_self

theorem word_eq_iff_fields {v w : Word} : w = v ↔ mbzField w = mbzField v ∧ opField w = opField v where
  mp h := h ▸ ⟨rfl, rfl⟩
  mpr := fun ⟨hmbz, hop⟩ => by rw [← mbzField_append_opField w, hmbz, hop, mbzField_append_opField]

@[simp] theorem mbzField_encode (i : Instr) : mbzField (encode i) = 0 := by
  cases i <;> rfl

@[simp] theorem instrOfOp_opField_encode (i : Instr) : instrOfOp (opField (encode i)) = some i := by
  cases i <;> rfl

/-- The OP number that selects a command is the one its command word carries, and no other. -/
theorem instrOfOp_eq_some_iff {op : BitVec 4} {i : Instr} : instrOfOp op = some i ↔ op = opField (encode i) where
  mp h := by
    unfold instrOfOp at h
    split at h <;> cases h <;> exact BitVec.eq_of_toNat_eq ‹_›
  mpr h := h ▸ instrOfOp_opField_encode i

/-- The decoder accepts a word when MBZ is zero and OP selects a command (R80–R82). -/
theorem decode_eq_ok_iff_fields {w : Word} {i : Instr} :
    decode w = .ok i ↔ mbzField w = 0 ∧ instrOfOp (opField w) = some i := by
  by_cases hmbz : mbzField w = 0
  · rw [decode, if_neg (not_not.mpr hmbz)]
    cases instrOfOp (opField w) <;> simp [hmbz]
  · rw [decode, if_pos hmbz]
    exact ⟨nofun, fun ⟨hzero, _⟩ => absurd hzero hmbz⟩

/-- A command is decoded from its command word alone (R81). -/
theorem decode_eq_ok_iff {w : Word} {i : Instr} : decode w = .ok i ↔ w = encode i := by
  rw [decode_eq_ok_iff_fields, instrOfOp_eq_some_iff, word_eq_iff_fields, mbzField_encode]

end Sys2Proof
end

section
/-! The statement of 30_encoding.md on the exact match of command words. -/

namespace Sys2Proof

/-- Settles O1: the decoder reads a command from its encoding alone, and `encode` is the table of the eight words. -/
theorem commandWordsMatchExactly : Obligations.CommandWordsMatchExactly := by
  unfold Obligations.CommandWordsMatchExactly
  intro w
  exact ⟨decode_eq_ok_iff, decode_eq_ok_iff, decode_eq_ok_iff, decode_eq_ok_iff, decode_eq_ok_iff, decode_eq_ok_iff,
    decode_eq_ok_iff, decode_eq_ok_iff⟩

end Sys2Proof
end

section
/-! SUPPORT. Bits read as a number (40_base32_decoder.md R110): of two bit strings in a row, of the front of a bit
string and of what follows it. -/

namespace Sys2Proof.Machine

theorem bitsToNat_append (a b : List Bool) : bitsToNat (a ++ b) = bitsToNat a * 2 ^ b.length + bitsToNat b := by
  induction b using List.reverseRecOn with
  | nil => simp [bitsToNat]
  | append_singleton b x ih =>
    have snoc (c : List Bool) : bitsToNat (c ++ [x]) = 2 * bitsToNat c + x.toNat := by simp [bitsToNat]
    rw [← List.append_assoc, snoc, snoc, ih, List.length_append, List.length_singleton]
    ring

theorem bitsToNat_lt (b : List Bool) : bitsToNat b < 2 ^ b.length := by
  induction b using List.reverseRecOn with
  | nil => decide
  | append_singleton b x ih =>
    have hx : bitsToNat [x] < 2 := by cases x <;> decide
    rw [bitsToNat_append, List.length_append, List.length_singleton, pow_succ]
    omega

/-- A bit string as a number: its first `n` bits are the quotient, the bits after them the remainder. -/
theorem bitsToNat_take_drop (b : List Bool) (n : Nat) :
    bitsToNat (b.take n) = bitsToNat b / 2 ^ (b.length - n) ∧
      bitsToNat (b.drop n) = bitsToNat b % 2 ^ (b.length - n) := by
  have hlt : bitsToNat (b.drop n) < 2 ^ (b.length - n) := by simpa using bitsToNat_lt (b.drop n)
  have hsplit : bitsToNat (b.drop n) + 2 ^ (b.length - n) * bitsToNat (b.take n) = bitsToNat b := by
    simpa [Nat.add_comm, Nat.mul_comm] using (bitsToNat_append (b.take n) (b.drop n)).symm
  exact ((Nat.div_mod_unique (Nat.two_pow_pos _)).2 ⟨hsplit, hlt⟩).imp Eq.symm Eq.symm

@[simp] theorem valueBits_length (v : BitVec 5) : (valueBits v).length = 5 := rfl

@[simp] theorem bitsToNat_valueBits (v : BitVec 5) : bitsToNat (valueBits v) = v.toNat := by
  revert v
  decide

theorem flatMap_valueBits_length (vs : List (BitVec 5)) : (vs.flatMap valueBits).length = 5 * vs.length := by
  simp [List.length_flatMap, Nat.mul_comm]

/-- Byte `j` of a bit string, its bits 8j .. 8j+7: `closedByte` for any bits (R110). -/
def bitsByte (b : List Bool) (j : Nat) : Byte := BitVec.ofNat 8 (bitsToNat ((b.drop (8 * j)).take 8))

theorem closedBytes_eq (s : List Byte) :
    closedBytes s = (List.range (5 * (alphabetValues s).length / 8)).map (bitsByte (bitString s)) := rfl

theorem bitsByte_append {b : List Bool} {j : Nat} (h : 8 * j + 8 ≤ b.length) (c : List Bool) :
    bitsByte (b ++ c) j = bitsByte b j := by
  rw [bitsByte, List.drop_append_of_le_length (by omega), List.take_append_of_le_length (by simp; omega), bitsByte]

/-- The whole bytes of a bit string stay as they are when bits follow it. -/
theorem map_bitsByte_append {b : List Bool} {n : Nat} (h : 8 * n ≤ b.length) (c : List Bool) :
    (List.range n).map (bitsByte (b ++ c)) = (List.range n).map (bitsByte b) := by
  refine List.map_congr_left fun j hj => bitsByte_append ?_ c
  have := List.mem_range.1 hj
  omega

/-- A byte of a bit string with `r` bits after it: the number the string spells, shifted right by `r`. -/
theorem bitsByte_eq_div {b : List Bool} {j r : Nat} (h : b.length = 8 * j + 8 + r) :
    bitsByte b j = BitVec.ofNat 8 (bitsToNat b / 2 ^ r) := by
  have hrest : b.length - (8 * j + 8) = r := by omega
  have hbyte : (b.drop (8 * j)).take 8 = (b.take (8 * j + 8)).drop (8 * j) := by simp [List.drop_take]
  have hlen : (b.take (8 * j + 8)).length - 8 * j = 8 := by simp; omega
  rw [bitsByte, hbyte, (bitsToNat_take_drop _ _).2, hlen, (bitsToNat_take_drop _ _).1, hrest]
  exact BitVec.eq_of_toNat_eq (by simp)

end Sys2Proof.Machine
end

section
/-! SUPPORT. The decoder in closed form (40_base32_decoder.md R103–R110): the padding-stripping machine measures the
normalized string, and the emitter cuts the bits of the alphabet values into bytes. -/

namespace Sys2Proof.Machine

/-! ### The padding-stripping machine -/

/-- The padding-stripping machine after the uppercased bytes `t`: the kept bytes are those that normalization keeps, and
the trailing run is what it takes away after whitespace. -/
theorem runPads_closedForm (t : List Byte) :
    (runPads t).kept = (stripTrailingPad (stripSpace t)).length ∧
      (runPads t).kept + (runPads t).trailing = (stripSpace t).length := by
  induction t using List.reverseRecOn with
  | nil => exact ⟨rfl, rfl⟩
  | append_singleton t u ih =>
    obtain ⟨hkept, htotal⟩ := ih
    rw [runPads_snoc, padStep]
    split
    next hspace =>
      have hstrip : stripSpace (t ++ [u]) = stripSpace t := by simp [stripSpace, hspace]
      exact hstrip ▸ ⟨hkept, htotal⟩
    next hspace =>
      have hstrip : stripSpace (t ++ [u]) = stripSpace t ++ [u] := by simp [stripSpace, hspace]
      rw [hstrip, stripTrailingPad, List.rdropWhile_concat, List.length_append, List.length_singleton]
      split
      next hpad => exact ⟨hkept, by simp only; omega⟩
      next hpad => simp only [List.length_append, List.length_singleton]; omega

/-- L at the end of a string is the length of the normalized string (R103). -/
theorem b32decode_kept (s : List Byte) : (b32decode s).pads.kept = (normalize s).length := by
  rw [b32decode_eq]
  exact (runPads_closedForm _).1

theorem normalize_length_le (s : List Byte) : (normalize s).length ≤ s.length := by
  calc (normalize s).length
    _ ≤ (stripSpace (s.map upper)).length := (List.rdropWhile_prefix _ _).length_le
    _ ≤ (s.map upper).length := List.length_filter_le _ _
    _ = s.length := List.length_map _

/-! ### The emitter -/

theorem alphabetValues_length_le (s : List Byte) : (alphabetValues s).length ≤ s.length := by
  simpa [alphabetValues] using List.length_filterMap_le b32val (s.map upper)

/-- The emitter takes in the alphabet values, and no other byte (R104). -/
theorem runEmitter_eq_foldl (t : List Byte) : runEmitter t = (t.filterMap b32val).foldl emitValue emitStart := by
  induction t using List.reverseRecOn with
  | nil => rfl
  | append_singleton t u ih =>
    cases h : b32val u with
    | none => simp [emitStep_skip h, ih, h]
    | some v => simp [emitStep_value h, ih, h]

/-- ACC after one value is shifted in (R104 step 3), as a number. -/
theorem shiftIn_toNat (acc : BitVec 12) (v : BitVec 5) :
    ((acc <<< 5) ||| v.setWidth 12).toNat = (acc.toNat * 2 ^ 5 + v.toNat) % 2 ^ 12 := by
  have hv : v.toNat = v.toNat % 2 ^ 12 := (Nat.mod_eq_of_lt (by omega)).symm
  rw [BitVec.toNat_or, BitVec.toNat_shiftLeft, BitVec.toNat_setWidth, ← Nat.or_mod_two_pow,
    ← Nat.shiftLeft_add_eq_or_of_lt v.isLt, Nat.shiftLeft_eq]

/-- ACC follows the number that the bits spell, reduced to its width (R104 step 3, R106). -/
theorem shiftIn_bitsToNat {acc : BitVec 12} {b : List Bool} (h : acc.toNat = bitsToNat b % 2 ^ 12) (v : BitVec 5) :
    ((acc <<< 5) ||| v.setWidth 12).toNat = bitsToNat (b ++ valueBits v) % 2 ^ 12 := by
  rw [shiftIn_toNat, bitsToNat_append, valueBits_length, bitsToNat_valueBits, h, Nat.add_mod, Nat.mod_mul_mod,
    ← Nat.add_mod]

/-- The emitter after the alphabet values `vs`, in terms of their bits: it holds the number these spell, reduced to
the width of ACC, and has emitted every whole byte of them (R106, R110). -/
structure EmitterClosedForm (vs : List (BitVec 5)) (e : Emitter) : Prop where
  nvalid : e.nvalid = vs.length
  cnt : e.cnt = 5 * vs.length % 8
  acc : e.acc.toNat = bitsToNat (vs.flatMap valueBits) % 2 ^ 12
  out : e.out = (List.range (5 * vs.length / 8)).map (bitsByte (vs.flatMap valueBits))

/-- The byte the emitter takes from ACC is a byte of the bit string: with at most 4 bits after it, ACC holds it
whole (R106). -/
theorem emittedByte_eq_bitsByte {acc : BitVec 12} {b : List Bool} {j r : Nat}
    (hacc : acc.toNat = bitsToNat b % 2 ^ 12) (hlen : b.length = 8 * j + 8 + r) (hr : r ≤ 4) :
    (acc >>> r).setWidth 8 = bitsByte b j := by
  obtain ⟨m, hm⟩ : ∃ m, 12 = r + (8 + m) := ⟨4 - r, by omega⟩
  apply BitVec.eq_of_toNat_eq
  rw [bitsByte_eq_div hlen, BitVec.toNat_ofNat, BitVec.toNat_setWidth, BitVec.toNat_ushiftRight,
    Nat.shiftRight_eq_div_pow, hacc, hm, pow_add, Nat.mod_mul_right_div_self, pow_add, Nat.mod_mul_right_mod]

/-- One more value keeps the closed form: its five bits complete a byte, or they do not. -/
theorem emitValue_closedForm {vs : List (BitVec 5)} {e : Emitter} (h : EmitterClosedForm vs e) (v : BitVec 5) :
    EmitterClosedForm (vs ++ [v]) (emitValue e v) := by
  obtain ⟨hnvalid, hcnt, hacc, hout⟩ := h
  have hsize := flatMap_valueBits_length vs
  have hk : (vs ++ [v]).length = vs.length + 1 := by simp
  have hbits : (vs ++ [v]).flatMap valueBits = vs.flatMap valueBits ++ valueBits v := by simp
  have hacc' := shiftIn_bitsToNat hacc v
  have hout' : e.out = (List.range (5 * vs.length / 8)).map (bitsByte (vs.flatMap valueBits ++ valueBits v)) := by
    rw [hout, map_bitsByte_append (by omega)]
  rw [emitValue]
  split
  next hfull =>
    have hn : 5 * (vs ++ [v]).length / 8 = 5 * vs.length / 8 + 1 := by omega
    have hlen : (vs.flatMap valueBits ++ valueBits v).length = 8 * (5 * vs.length / 8) + 8 + (e.cnt + 5 - 8) := by
      rw [List.length_append, valueBits_length]
      omega
    have hbyte := emittedByte_eq_bitsByte hacc' hlen (by omega)
    refine ⟨by simp [hnvalid], by simp only; omega, hbits ▸ hacc', ?_⟩
    rw [hbits, hn, List.range_succ, List.map_append, ← hout', List.map_singleton, ← hbyte]
  next hpart =>
    have hn : 5 * (vs ++ [v]).length / 8 = 5 * vs.length / 8 := by omega
    exact ⟨by simp [hnvalid], by simp only; omega, hbits ▸ hacc', by rw [hbits, hn, ← hout']⟩

theorem foldl_emitValue_closedForm (vs : List (BitVec 5)) : EmitterClosedForm vs (vs.foldl emitValue emitStart) := by
  induction vs using List.reverseRecOn with
  | nil => exact ⟨rfl, rfl, rfl, rfl⟩
  | append_singleton vs v ih => simpa using emitValue_closedForm ih v

theorem b32decode_emit_closedForm (s : List Byte) : EmitterClosedForm (alphabetValues s) (b32decode s).emit := by
  rw [b32decode_eq, runEmitter_eq_foldl]
  exact foldl_emitValue_closedForm _

theorem bitString_length (s : List Byte) : (bitString s).length = 5 * (alphabetValues s).length :=
  flatMap_valueBits_length _

theorem b32decode_out (s : List Byte) : (b32decode s).emit.out = closedBytes s :=
  (b32decode_emit_closedForm s).out.trans (closedBytes_eq s).symm

theorem closedBytes_length (s : List Byte) : (closedBytes s).length = 5 * (alphabetValues s).length / 8 := by
  simp [closedBytes]

theorem closedResidual_eq_mod (s : List Byte) :
    closedResidual s = bitsToNat (bitString s) % 2 ^ (5 * (alphabetValues s).length % 8) := by
  have hcount : (bitString s).length - 8 * (5 * (alphabetValues s).length / 8) = 5 * (alphabetValues s).length % 8 := by
    rw [bitString_length]
    omega
  rw [closedResidual, (bitsToNat_take_drop _ _).2, hcount]

theorem b32decode_residual (s : List Byte) : (b32decode s).residual = closedResidual s := by
  obtain ⟨-, hcnt, hacc, -⟩ := b32decode_emit_closedForm s
  rw [Decoder.residual, hcnt, hacc, closedResidual_eq_mod, Nat.mod_mod_of_dvd _ (Nat.pow_dvd_pow 2 (by omega))]
  rfl

theorem closedResidual_lt (s : List Byte) : closedResidual s < 2 ^ (5 * (alphabetValues s).length % 8) := by
  rw [closedResidual_eq_mod]
  exact Nat.mod_lt _ (Nat.two_pow_pos _)

end Sys2Proof.Machine
end

section
/-! SUPPORT. What DECODE leaves in the registers of a legal state (40_base32_decoder.md R109, R114). -/

namespace Sys2Proof.Machine

theorem RegsInv.secretString_length_le {p : Params} {r : Regs} (h : RegsInv p r) :
    (secretString r).length ≤ p.secretCap :=
  (List.length_take_le _ _).trans h.secretLenLegal

theorem Params.secretCap_le {p : Params} (h : p.wf = true) : p.secretCap ≤ 256 := (of_decide_eq_true h).2

/-- KEY holds every byte the secret string can decode to (R114). -/
theorem RegsInv.closedBytes_length_le {p : Params} {r : Regs} (h : RegsInv p r) :
    (closedBytes (secretString r)).length ≤ r.key.length := by
  have hk := (alphabetValues_length_le (secretString r)).trans h.secretString_length_le
  rw [closedBytes_length, h.keySize, Params.keyCap]
  omega

/-- In a legal block the decode fits its registers, so each holds its value in full (R109). -/
theorem commitDecode_outputs {p : Params} {r : Regs} (hp : p.wf = true) (h : RegsInv p r) :
    DecodeOutputs r (commitDecode (b32decode (secretString r)) r) := by
  have hcap := Params.secretCap_le hp
  have hs := h.secretString_length_le
  have hk := alphabetValues_length_le (secretString r)
  have hN := normalize_length_le (secretString r)
  have hresid : closedResidual (secretString r) < 2 ^ 7 :=
    (closedResidual_lt _).trans_le (Nat.pow_le_pow_right (by decide) (by omega))
  obtain ⟨hnvalid, hcnt, -, -⟩ := b32decode_emit_closedForm (secretString r)
  have hkeyLen : (commitDecode (b32decode (secretString r)) r).keyLen.toNat =
      (closedBytes (secretString r)).length := by
    rw [commitDecode_keyLen, b32decode_out, BitVec.toNat_ofNat, closedBytes_length, Nat.mod_eq_of_lt (by omega)]
  constructor
  case key =>
    rw [keyBytes, hkeyLen, commitDecode_key, b32decode_out]
    exact overwriteFront_take h.closedBytes_length_le
  case keyTail =>
    intro i hi
    rw [commitDecode_key, b32decode_out]
    exact overwriteFront_byteAt (hkeyLen ▸ hi)
  case keySize => simp
  case keyLen => rw [hkeyLen, closedBytes_length]
  case capHint =>
    rw [commitDecode_capHint, Decoder.capHint, b32decode_kept, BitVec.toNat_ofNat, Nat.mod_eq_of_lt (by omega)]
  case rcnt => rw [commitDecode_rcnt, hcnt, BitVec.toNat_ofNat, Nat.mod_eq_of_lt (by omega)]
  case rbits => rw [commitDecode_rbits, b32decode_residual, BitVec.toNat_ofNat, Nat.mod_eq_of_lt hresid]
  case nvalid => rw [commitDecode_nvalid, hnvalid, BitVec.toNat_ofNat, Nat.mod_eq_of_lt (by omega)]

/-- DEC_RESID is RCNT with RBITS eight bits higher (10_state.md R31). -/
theorem readReg_decResid_toNat (s : State) :
    (readReg s .decResid).toNat = s.regs.rcnt.toNat + 256 * s.regs.rbits.toNat := by
  have hrcnt : s.regs.rcnt.toNat < 2 ^ 8 := s.regs.rcnt.isLt.trans (by decide)
  have hrbits : s.regs.rbits.toNat <<< 8 < 2 ^ 32 := by
    have := s.regs.rbits.isLt
    rw [Nat.shiftLeft_eq]
    omega
  rw [readReg, BitVec.toNat_or, BitVec.toNat_shiftLeft, BitVec.toNat_setWidth_of_le (by decide),
    BitVec.toNat_setWidth_of_le (by decide), Nat.mod_eq_of_lt hrbits, ← Nat.shiftLeft_add_eq_or_of_lt hrcnt,
    Nat.shiftLeft_eq, Nat.add_comm, Nat.mul_comm]

end Sys2Proof.Machine
end

section
/-! The statements of 40_base32_decoder.md on DECODE. -/

namespace Sys2Proof.Machine

/-- Settles O36: DECODE commits the decode of the secret string, and under the invariant every register is wide enough
for what the decode's closed form puts there. -/
theorem decodeWritesTheDecodedString : Obligations.DecodeWritesTheDecodedString := by
  unfold Obligations.DecodeWritesTheDecodedString
  refine ⟨decode_eq_ok_iff.2 rfl, fun s hinv => ⟨_, exec_decode s, rfl, ?_⟩⟩
  obtain ⟨hkey, hkeyTail, hkeySize, hkeyLen, hcapHint, hrcnt, hrbits, hnvalid⟩ :=
    commitDecode_outputs hinv.paramsLegal hinv.regsLegal
  refine ⟨hkey, hkeyLen, hkeySize, hkeyTail, hcapHint, ?_, hnvalid⟩
  rw [readReg_decResid_toNat, complete_regs, hrcnt, hrbits]

/-- A string with no alphabet character decodes to no byte (R113). -/
theorem b32decode_out_of_no_alphabet {s : List Byte} (h : ∀ c ∈ s, b32val (upper c) = none) :
    (b32decode s).emit.out = [] := by
  have hvalues : alphabetValues s = [] := by simpa [alphabetValues, List.filterMap_eq_nil_iff] using h
  rw [b32decode_out, closedBytes, hvalues]
  rfl

/-- Settles O37: SECRET_LEN = 0 makes the secret string empty, so it has no alphabet character either. -/
theorem noAlphabetCharacterDecodesToNothing : Obligations.NoAlphabetCharacterDecodesToNothing := by
  unfold Obligations.NoAlphabetCharacterDecodesToNothing
  intro s h
  have hnone : ∀ c ∈ secretString s.regs, b32val (upper c) = none := by
    obtain hlen | hnone := h
    · simp [secretString, hlen]
    · exact hnone
  have hout := b32decode_out_of_no_alphabet hnone
  exact ⟨hout, _, exec_decode s, by simp [hout], rfl, rfl⟩

end Sys2Proof.Machine
end

section
/-! SUPPORT. The validator (41_validation.md R131) from each of its states: whitespace leaves the state as it is, and
of a string without whitespace each state accepts what may still follow it in a valid string (R130). -/

namespace Sys2Proof.Machine

/-- An alphabet character in either case (R130). -/
def isAlphabet (c : Byte) : Bool := (b32val (upper c)).isSome

theorem isSome_b32val_upper (c : Byte) : (b32val (upper c)).isSome = isAlphabet c := rfl

/-- Padding is no alphabet character. -/
theorem isAlphabet_of_isPad {c : Byte} (h : isPad c = true) : isAlphabet c = false := by
  rw [isAlphabet, b32val_of_isPad ((isPad_upper c).trans h), Option.isSome_none]

/-- The validator run over a byte string from any of its states. -/
def runValidatorFrom (st : Validator) (s : List Byte) : Validator :=
  s.foldl (fun st c => validatorStep st (upper c)) st

theorem runValidator_eq (s : List Byte) : runValidator s = runValidatorFrom .start s := rfl

@[simp] theorem runValidatorFrom_nil (st : Validator) : runValidatorFrom st [] = st := rfl

@[simp] theorem runValidatorFrom_cons (st : Validator) (c : Byte) (s : List Byte) :
    runValidatorFrom st (c :: s) = runValidatorFrom (validatorStep st (upper c)) s := rfl

/-! ### The rows of the table -/

theorem validatorStep_of_isSpace {c : Byte} (h : isSpace c = true) (st : Validator) :
    validatorStep st (upper c) = st := by simp [validatorStep, h]

theorem validatorStep_start {c : Byte} (h : isSpace c = false) :
    validatorStep .start (upper c) = if isAlphabet c then .alpha else .reject := by
  simp [validatorStep, isSome_b32val_upper, h]

theorem validatorStep_alpha {c : Byte} (h : isSpace c = false) :
    validatorStep .alpha (upper c) = if isAlphabet c then .alpha else if isPad c then .pads else .reject := by
  simp [validatorStep, isSome_b32val_upper, h]

theorem validatorStep_pads {c : Byte} (h : isSpace c = false) :
    validatorStep .pads (upper c) = if isPad c then .pads else .reject := by
  cases hpad : isPad c with
  | true => simp [validatorStep, isSome_b32val_upper, h, hpad, isAlphabet_of_isPad hpad]
  | false => simp [validatorStep, h, hpad]

@[simp] theorem validatorStep_reject (u : Byte) : validatorStep .reject u = .reject := by simp [validatorStep]

/-! ### What each state accepts -/

theorem runValidatorFrom_stripSpace (st : Validator) (s : List Byte) :
    runValidatorFrom st (stripSpace s) = runValidatorFrom st s := by
  rw [runValidatorFrom, stripSpace, List.foldl_filter, runValidatorFrom]
  refine List.foldl_ext _ _ _ fun st c _ => ?_
  cases hspace : isSpace c with
  | true => simp [validatorStep_of_isSpace hspace]
  | false => simp

theorem isSpace_of_mem_stripSpace {s : List Byte} : ∀ c ∈ stripSpace s, isSpace c = false := by
  simp [stripSpace]

@[simp] theorem runValidatorFrom_reject (t : List Byte) : runValidatorFrom .reject t = .reject := by
  induction t with
  | nil => rfl
  | cons c t ih => rw [runValidatorFrom_cons, validatorStep_reject, ih]

/-- PADS accepts padding only. -/
theorem runValidatorFrom_pads_accepts {t : List Byte} (h : ∀ c ∈ t, isSpace c = false) :
    (runValidatorFrom .pads t).accepts = true ↔ ∀ c ∈ t, isPad c = true := by
  induction t with
  | nil => simp [Validator.accepts]
  | cons c t ih =>
    obtain ⟨hc, ht⟩ := List.forall_mem_cons.1 h
    rw [runValidatorFrom_cons, validatorStep_pads hc, List.forall_mem_cons]
    cases hpad : isPad c with
    | true => simp [ih ht]
    | false => simp [Validator.accepts]

/-- ALPHA accepts padding only, after any further alphabet characters. -/
theorem runValidatorFrom_alpha_accepts {t : List Byte} (h : ∀ c ∈ t, isSpace c = false) :
    (runValidatorFrom .alpha t).accepts = true ↔ ∀ c ∈ t.dropWhile isAlphabet, isPad c = true := by
  induction t with
  | nil => simp [Validator.accepts]
  | cons c t ih =>
    obtain ⟨hc, ht⟩ := List.forall_mem_cons.1 h
    rw [runValidatorFrom_cons, validatorStep_alpha hc, List.dropWhile_cons]
    cases halpha : isAlphabet c with
    | true => simp [ih ht]
    | false =>
      cases hpad : isPad c with
      | true => simp [runValidatorFrom_pads_accepts ht, hpad]
      | false => simp [Validator.accepts, hpad]

/-- START accepts an alphabet character and then what ALPHA accepts. -/
theorem runValidatorFrom_start_accepts {t : List Byte} (h : ∀ c ∈ t, isSpace c = false) :
    (runValidatorFrom .start t).accepts = true ↔
      ∃ c u, t = c :: u ∧ isAlphabet c = true ∧ ∀ d ∈ u.dropWhile isAlphabet, isPad d = true := by
  cases t with
  | nil => simp [Validator.accepts]
  | cons c t =>
    obtain ⟨hc, ht⟩ := List.forall_mem_cons.1 h
    rw [runValidatorFrom_cons, validatorStep_start hc]
    cases halpha : isAlphabet c with
    | true => simp [runValidatorFrom_alpha_accepts ht, halpha]
    | false => simp [Validator.accepts, halpha]

/-- The predicate of R130 with its run made maximal: the first character is of the alphabet, and past the alphabet
characters that follow it there is only padding. -/
theorem b32valid_iff_dropWhile (s : List Byte) :
    b32valid s ↔
      ∃ c u, stripSpace s = c :: u ∧ isAlphabet c = true ∧ ∀ d ∈ u.dropWhile isAlphabet, isPad d = true := by
  constructor
  · rintro ⟨a, p, hs, hne, halpha : ∀ c ∈ a, isAlphabet c = true, hpad⟩
    obtain _ | ⟨c, a⟩ := a
    · exact absurd rfl hne
    · obtain ⟨hc, ha⟩ := List.forall_mem_cons.1 halpha
      refine ⟨c, a ++ p, hs, hc, fun d hd => hpad d ?_⟩
      rw [List.dropWhile_append_of_pos ha] at hd
      exact (List.dropWhile_sublist _).mem hd
  · rintro ⟨c, u, hs, hc, hpad⟩
    refine ⟨c :: u.takeWhile isAlphabet, u.dropWhile isAlphabet, ?_, List.cons_ne_nil _ _, ?_, hpad⟩
    · rw [hs, List.cons_append, List.takeWhile_append_dropWhile]
    · exact List.forall_mem_cons.2 ⟨hc, fun d hd => List.mem_takeWhile_imp (p := isAlphabet) hd⟩

end Sys2Proof.Machine
end

section
/-! The statements of 41_validation.md on the validator and VALIDATE. -/

namespace Sys2Proof.Machine

/-- Settles O39: whitespace never moves the validator (R131), and on the stripped string START accepts what the
predicate asks for. -/
theorem validatorComputesThePredicate : Obligations.ValidatorComputesThePredicate := by
  unfold Obligations.ValidatorComputesThePredicate
  intro s
  rw [runValidator_eq, ← runValidatorFrom_stripSpace, b32valid_iff_dropWhile]
  exact runValidatorFrom_start_accepts isSpace_of_mem_stripSpace

/-- Settles O40: VALIDATE commits the validator's verdict, which is the predicate by O39. -/
theorem validateStoresTheVerdict : Obligations.ValidateStoresTheVerdict := by
  unfold Obligations.ValidateStoresTheVerdict
  exact ⟨decode_eq_ok_iff.2 rfl, fun s =>
    ⟨_, exec_validate s, rfl, validatorComputesThePredicate (secretString s.regs)⟩⟩

end Sys2Proof.Machine
end

section
/-! SUPPORT. What PACK leaves in the registers (42_counter_packer.md R141, R142, R145): the epoch of the host's time,
its rounding, and the message of a counter. -/

namespace Sys2Proof.Machine

theorem epochOf_timeMs (r : Regs) : epochOf (timeMs r).toNat = hostSeconds r := by
  rw [timeMs_toNat]
  rfl

/-- Rounding to nearest with a tie up is division after half a second is added (R141). -/
theorem epochOf_eq_add_div (ms : Nat) : epochOf ms = (ms + 500) / 1000 := by
  unfold epochOf
  split <;> omega

/-- MSG[i] is the digit of 256^(7−i) of COUNTER (R145). -/
theorem messageOf_get_toNat (c : BitVec 64) (i : Fin 8) :
    ((messageOf c).get i).toNat = c.toNat / 2 ^ (56 - 8 * i.val) % 256 := by
  rw [messageOf, Vector.get_ofFn, BitVec.extractLsb'_toNat, Nat.shiftRight_eq_div_pow]

/-- The registers PACK writes are wide enough for the epoch and the counter (R142). -/
theorem commitPack_outputs (r : Regs) : PackOutputs r (commitPack r.window.toNat r) := by
  constructor
  case epoch => rw [commitPack_epoch, epoch_toNat, epochOf_timeMs]
  case counter => rw [commitPack_counter, counter_toNat, epochOf_timeMs]
  case msg =>
    rw [commitPack_msg, commitPack_counter]
    exact messageOf_get_toNat _

end Sys2Proof.Machine
end

section
/-! The statements of 42_counter_packer.md on PACK and the epoch. -/

namespace Sys2Proof.Machine

/-- Settles O43: PACK commits the pack of the host's time and window, or raises BAD_WINDOW before it writes. -/
theorem packComputesTheCounter : Obligations.PackComputesTheCounter := by
  unfold Obligations.PackComputesTheCounter
  refine ⟨decode_eq_ok_iff.2 rfl, fun s => ⟨fun hwindow => ?_, exec_pack_of_eq⟩⟩
  obtain ⟨hepoch, hcounter, hmsg⟩ := commitPack_outputs s.regs
  exact ⟨_, exec_pack_of_ne hwindow, rfl, hepoch, hepoch ▸ hcounter, hmsg⟩

/-- Settles O44: the epoch is the quotient of ms + 500 by 1000, which the division theorem bounds on both sides. -/
theorem epochRoundsToNearest : Obligations.EpochRoundsToNearest := by
  unfold Obligations.EpochRoundsToNearest
  intro ms
  rw [epochOf_eq_add_div]
  refine ⟨Nat.mul_div_le _ _, Nat.lt_mul_div_succ _ (by decide), fun hms => ?_⟩
  have hepoch : (ms + 500) / 1000 ≤ 18446744073709552 := by omega
  exact ⟨hepoch, hepoch.trans_lt (by decide)⟩

end Sys2Proof.Machine
end

section
/-! SUPPORT. What a committed digest reads back as (43_hmac_sha1.md R160). -/

namespace Sys2Proof.Machine

/-- DIGEST holds the whole of a 20-byte digest. -/
theorem commitDigest_digest_toList {d : List Byte} (h : d.length = 20) (r : Regs) :
    (commitDigest d r).digest.toList = d := by
  rw [commitDigest_digest]
  refine List.ext_getElem (by simp [h]) fun i _ hi => ?_
  simp [byteAt, hi]

end Sys2Proof.Machine
end

section
/-! The statement of 43_hmac_sha1.md on HMAC. -/

namespace Sys2Proof.Machine

/-- Settles O52: the key test comes before the backend; a digest stage that succeeds commits HMAC_SHA1 of KEY and MSG,
which is as long as DIGEST, and one that fails has only used the library. -/
theorem hmacStoresTheDigest : Obligations.HmacStoresTheDigest := by
  unfold Obligations.HmacStoresTheDigest
  refine ⟨decode_eq_ok_iff.2 rfl, fun s => ⟨exec_hmac_of_eq, ?succeeds, ?fails⟩⟩
  case succeeds =>
    intro hkey hlib
    obtain ⟨o, hstage, hinternal, hexternal⟩ := digestStage_succeeds hlib
    have hexec := exec_hmac_of_ne hkey
    rw [hstage, Staged.finish_goesOn] at hexec
    exact ⟨_, hexec, rfl, hinternal, hexternal, commitDigest_digest_toList (hmacSha1_length _ _) s.regs⟩
  case fails =>
    intro hkey hbackend hlib
    rw [exec_hmac_of_ne hkey, digestStage_failed hbackend hlib, Staged.finish_raised]
    rfl

end Sys2Proof.Machine
end

section
/-! SUPPORT. What a truncation leaves in the registers (44_truncation.md R190, R192, R193): OFFSET, BINARY and OTP as
numbers, the digits of CODE, and the bytes of DIGEST they come from. -/

namespace Sys2Proof.Machine

/-! ### DIGEST as numbers -/

theorem digestNat_of_lt {r : Regs} {j : Nat} (h : j < 20) : digestNat r j = r.digest[j].toNat := by
  simp [digestNat, digestBytes, byteAt, h]

/-- A truncation leaves the DIGEST it reads. -/
@[simp] theorem digestNat_commitTrunc (r : Regs) (j : Nat) : digestNat (commitTrunc r) j = digestNat r j := by
  simp only [digestNat, digestBytes, commitTrunc_digest]

/-! ### OFFSET, BINARY, OTP and CODE as numbers -/

/-- Two bit vectors in a row are the high one times the weight of the low one, plus the low one. -/
theorem toNat_append_eq_mul_add {m n : Nat} (x : BitVec m) (y : BitVec n) :
    (x ++ y).toNat = x.toNat * 2 ^ n + y.toNat := by
  rw [BitVec.toNat_append, ← Nat.shiftLeft_add_eq_or_of_lt y.isLt, Nat.shiftLeft_eq]

theorem truncOffsetOf_toNat (d : List Byte) : (truncOffsetOf d).toNat = (byteAt d 19).toNat % 16 :=
  BitVec.toNat_setWidth _ _

/-- BINARY is the big-endian number of its four bytes, the first without its top bit (R190). -/
theorem truncBinary_toNat (d : List Byte) (o : Nat) :
    (truncBinary d o).toNat =
      (byteAt d o).toNat % 128 * 2 ^ 24 + (byteAt d (o + 1)).toNat * 2 ^ 16 + (byteAt d (o + 2)).toNat * 2 ^ 8 +
        (byteAt d (o + 3)).toNat := by
  simp only [truncBinary, toNat_append_eq_mul_add, BitVec.toNat_setWidth]
  ring

theorem otpOf_lt (b : BitVec 31) : otpOf b < 1000000 := Nat.mod_lt _ (by decide)

/-- Nothing of the otp is lost in its 20-bit register (R192). -/
theorem otp_toNat (b : BitVec 31) : (BitVec.ofNat 20 (otpOf b)).toNat = otpOf b := by
  have := otpOf_lt b
  rw [BitVec.toNat_ofNat, Nat.mod_eq_of_lt (by omega)]

/-- A digit's character fits its byte, so CODE[i] is 0x30 + digit i (R193). -/
theorem codeOf_get_toNat (otp : Nat) (i : Fin 6) :
    ((codeOf otp).get i).toNat = 0x30 + otp / 10 ^ (5 - i.val) % 10 := by
  have : otp / 10 ^ (5 - i.val) % 10 < 10 := Nat.mod_lt _ (by decide)
  rw [codeOf, Vector.get_ofFn, BitVec.toNat_ofNat, Nat.mod_eq_of_lt (by omega)]

/-- A truncation writes the four values of DIGEST. -/
theorem commitTrunc_outputs (r : Regs) : TruncOutputs (commitTrunc r) := by
  constructor
  case offset => rw [commitTrunc_offset, digestNat_commitTrunc, truncOffsetOf_toNat, digestNat]
  case binary =>
    simp only [digestNat_commitTrunc, commitTrunc_binary, commitTrunc_offset]
    exact truncBinary_toNat _ _
  case otp => rw [commitTrunc_otp, commitTrunc_binary, otp_toNat, otpOf]
  case code =>
    rw [commitTrunc_code, commitTrunc_otp, otp_toNat]
    exact codeOf_get_toNat _

/-- The four bytes of BINARY lie inside DIGEST, so any function that lists DIGEST gives them (R190). -/
theorem TruncOutputs.binary_of_digest {r : Regs} (h : TruncOutputs r) {d : Nat → Nat}
    (hd : ∀ j : Fin 20, d j.val = (r.digest.get j).toNat) :
    r.binary.toNat =
      d r.offset.toNat % 128 * 2 ^ 24 + d (r.offset.toNat + 1) * 2 ^ 16 + d (r.offset.toNat + 2) * 2 ^ 8 +
        d (r.offset.toNat + 3) := by
  have hdigest {j : Nat} (hj : j < 20) : d j = digestNat r j := (hd ⟨j, hj⟩).trans (digestNat_of_lt hj).symm
  have hoffset : r.offset.toNat < 16 := r.offset.isLt
  rw [h.binary, hdigest (by omega), hdigest (by omega), hdigest (by omega), hdigest (by omega)]

end Sys2Proof.Machine
end

section
/-! The statement of 44_truncation.md on TRUNC. -/

namespace Sys2Proof.Machine

/-- Settles O54: TRUNC never raises; it commits the truncation of DIGEST, which it leaves as it was. -/
theorem truncStoresTheCode : Obligations.TruncStoresTheCode := by
  unfold Obligations.TruncStoresTheCode
  refine ⟨decode_eq_ok_iff.2 rfl, fun s => ?_⟩
  have houtputs := commitTrunc_outputs s.regs
  have hoffset : (commitTrunc s.regs).offset.toNat = s.regs.digest[19].toNat % 16 := by
    rw [houtputs.offset, digestNat_commitTrunc, digestNat_of_lt (by decide)]
  exact ⟨_, exec_trunc s, rfl, hoffset, fun _ hd => houtputs.binary_of_digest hd, houtputs.otp, houtputs.code⟩

end Sys2Proof.Machine
end

section
/-! SUPPORT. What the stages of GENERATE leave one after the other (45_generate.md R210): when a secret has a key, which
registers a later stage passes on, and how a run past PACK ends. -/

namespace Sys2Proof.Machine

/-- SECRET_LEN is 32 bits wide and the key is shorter than the secret string, so KEY_LEN loses nothing in any state. -/
theorem commitDecode_keyLen_toNat (r : Regs) :
    (commitDecode (b32decode (secretString r)) r).keyLen.toNat =
      5 * (alphabetValues (secretString r)).length / 8 := by
  have hsecret : (secretString r).length ≤ r.secretLen.toNat := List.length_take_le _ _
  have hk := alphabetValues_length_le (secretString r)
  have hlen := r.secretLen.isLt
  rw [commitDecode_keyLen, b32decode_out, closedBytes_length, BitVec.toNat_ofNat, Nat.mod_eq_of_lt (by omega)]

theorem commitDecode_keyLen_eq_zero_iff (r : Regs) :
    (commitDecode (b32decode (secretString r)) r).keyLen = 0 ↔
      5 * (alphabetValues (secretString r)).length / 8 = 0 := by
  rw [← commitDecode_keyLen_toNat, BitVec.toNat_eq]
  rfl

/-- PACK writes no register of the decode. -/
theorem DecodeOutputs.commitPack {a b : Regs} (h : DecodeOutputs a b) (w : Nat) :
    DecodeOutputs a (commitPack w b) :=
  ⟨h.key, h.keyTail, h.keySize, h.keyLen, h.capHint, h.rcnt, h.rbits, h.nvalid⟩

/-- The decode writes no operand of PACK. -/
theorem PackOutputs.of_commitDecode {d : Decoder} {a b : Regs} (h : PackOutputs (commitDecode d a) b) :
    PackOutputs a b :=
  ⟨h.epoch, h.counter, h.msg⟩

/-- GENERATE that reaches its digest stage, which raises. -/
theorem exec_generate_digestRaised {s d u : State} {r : ResultCode} (hd : decodeStage s = .goesOn d)
    (hkey : d.regs.keyLen ≠ 0) (hwindow : d.regs.window ≠ 0)
    (hdigest : digestStage { d with regs := commitPack d.regs.window.toNat d.regs } = .raised r u) :
    exec .generate s = .next (complete r u) := by
  rw [exec_generate_packed hd hkey hwindow, hdigest, Staged.andThen_raised, Staged.finish_raised]

/-- GENERATE whose digest stage succeeds: TRUNC never raises, so it completes with OK. -/
theorem exec_generate_digested {s d u : State} (hd : decodeStage s = .goesOn d)
    (hkey : d.regs.keyLen ≠ 0) (hwindow : d.regs.window ≠ 0)
    (hdigest : digestStage { d with regs := commitPack d.regs.window.toNat d.regs } = .goesOn u) :
    exec .generate s = .next (complete .ok { u with regs := commitTrunc u.regs }) := by
  rw [exec_generate_packed hd hkey hwindow, hdigest, Staged.andThen_goesOn, truncStage, Staged.finish_goesOn]

end Sys2Proof.Machine
end

section
/-! The statement of 45_generate.md on the order of GENERATE's failures. -/

namespace Sys2Proof.Machine

/-- Settles O57: the conditions of the four cases fix which stage ends the operation, so `t` is that stage's state
completed; the decode has a key exactly when KEY_LEN is not 0, and PACK and the digest leave the decode's registers. -/
theorem generateStopsAtTheFirstFailure : Obligations.GenerateStopsAtTheFirstFailure := by
  unfold Obligations.GenerateStopsAtTheFirstFailure
  intro s t hexec
  have hd := decodeStage_eq s
  have hkeyLen := commitDecode_keyLen_eq_zero_iff s.regs
  have hdecode (hinv : Inv s) := commitDecode_outputs hinv.paramsLegal hinv.regsLegal
  have ht {u : State} (hu : exec .generate s = .next u) : t = u := Host.Outcome.next.inj (hexec.symm.trans hu)
  refine ⟨?emptyKey, ?badWindow, ?hashFailure, ?ok⟩
  case emptyKey =>
    intro hempty
    obtain rfl := ht (exec_generate_emptyKey hd (hkeyLen.2 hempty))
    exact ⟨rfl, hkeyLen.2 hempty, hdecode, rfl⟩
  case badWindow =>
    intro hkey hwindow
    obtain rfl := ht (exec_generate_badWindow hd (mt hkeyLen.1 hkey) hwindow)
    exact ⟨rfl, hdecode, rfl⟩
  case hashFailure =>
    intro hkey hwindow hbackend hlib
    obtain rfl := ht (exec_generate_digestRaised hd (mt hkeyLen.1 hkey) hwindow (digestStage_failed hbackend hlib))
    exact ⟨rfl, fun hinv => (hdecode hinv).commitPack _, (commitPack_outputs _).of_commitDecode, rfl⟩
  case ok =>
    intro hkey hwindow hlib
    obtain ⟨o, hdigest, -⟩ := digestStage_succeeds
      (s := { s with regs := commitPack s.regs.window.toNat (commitDecode (b32decode (secretString s.regs)) s.regs) })
      hlib
    obtain rfl := ht (exec_generate_digested hd (mt hkeyLen.1 hkey) hwindow hdigest)
    rfl

end Sys2Proof.Machine
end

section
/-! SUPPORT. The seconds remaining in the window and what TREM leaves in the registers (46_time_remaining.md R230). -/

namespace Sys2Proof.Machine

theorem timeRemaining_le (w e : Nat) : timeRemaining w e ≤ w := Nat.sub_le _ _

/-- At the first second of a window the whole window remains, not 0 (R230). -/
theorem timeRemaining_pos {w : Nat} (hw : 0 < w) (e : Nat) : 0 < timeRemaining w e :=
  Nat.sub_pos_of_lt (Nat.mod_lt e hw)

theorem commitTrem_epoch_toNat (w : Nat) (r : Regs) : (commitTrem w r).epoch.toNat = hostSeconds r := by
  rw [commitTrem_epoch, epoch_toNat, epochOf_timeMs]

/-- The seconds remaining fit the 32-bit TREM because WINDOW does (R230). -/
theorem commitTrem_trem_toNat (r : Regs) :
    (commitTrem r.window.toNat r).trem.toNat = timeRemaining r.window.toNat (hostSeconds r) := by
  have hfits := (timeRemaining_le r.window.toNat (hostSeconds r)).trans_lt r.window.isLt
  rw [commitTrem_trem, epochOf_timeMs, BitVec.toNat_ofNat, Nat.mod_eq_of_lt hfits]

end Sys2Proof.Machine
end

section
/-! The statement of 46_time_remaining.md on TREM. -/

namespace Sys2Proof.Machine

/-- Settles O47: TREM commits the rounded epoch and the seconds remaining, or raises BAD_WINDOW before it writes. The
remainder modulo a non-zero WINDOW is below it, so the result is in [1, WINDOW]. -/
theorem tremStoresTheSecondsLeft : Obligations.TremStoresTheSecondsLeft := by
  unfold Obligations.TremStoresTheSecondsLeft
  refine ⟨decode_eq_ok_iff.2 rfl, fun s => ⟨fun hwindow => ?_, exec_trem_of_eq⟩⟩
  have hepoch := commitTrem_epoch_toNat s.regs.window.toNat s.regs
  have htrem := commitTrem_trem_toNat s.regs
  have hpos : 0 < s.regs.window.toNat := BitVec.toNat_pos_of_ne_zero hwindow
  exact ⟨_, exec_trem_of_ne hwindow, rfl, hepoch, hepoch ▸ htrem, htrem ▸ timeRemaining_pos hpos _,
    htrem ▸ timeRemaining_le _ _⟩

end Sys2Proof.Machine
end

section
/-! SUPPORT. The reserved words and their acceptance (30_encoding.md R82, 70_reset_and_hazards.md R285): a word is
reserved when it is the encoding of no command, and a write to CMD of an idle block accepts any word. -/

namespace Sys2Proof

/-- The eight command words are the numbers 1 to 8 (R81). -/
theorem exists_eq_encode_iff {w : Word} : (∃ i, w = encode i) ↔ 1 ≤ w.toNat ∧ w.toNat ≤ 8 where
  mp := by
    rintro ⟨i, rfl⟩
    cases i <;> decide
  mpr := by
    rintro ⟨hlo, hhi⟩
    interval_cases h : w.toNat
    · exact ⟨.decode, BitVec.eq_of_toNat_eq h⟩
    · exact ⟨.validate, BitVec.eq_of_toNat_eq h⟩
    · exact ⟨.pack, BitVec.eq_of_toNat_eq h⟩
    · exact ⟨.hmac, BitVec.eq_of_toNat_eq h⟩
    · exact ⟨.trunc, BitVec.eq_of_toNat_eq h⟩
    · exact ⟨.trem, BitVec.eq_of_toNat_eq h⟩
    · exact ⟨.generate, BitVec.eq_of_toNat_eq h⟩
    · exact ⟨.clear, BitVec.eq_of_toNat_eq h⟩

namespace Machine

theorem opOf_eq_reserved_iff {w : Word} : opOf w = .reserved ↔ ¬ ∃ i, w = encode i := by
  simp only [← decode_eq_ok_iff, opOf]
  cases decode w <;> simp

/-- A word is reserved when it is none of the numbers 1 to 8 (R82). -/
theorem opOf_eq_reserved_iff_toNat {w : Word} : opOf w = .reserved ↔ ¬ (1 ≤ w.toNat ∧ w.toNat ≤ 8) := by
  rw [opOf_eq_reserved_iff, exists_eq_encode_iff]

/-- CMD is at 0x004 in every instance (10_state.md R23). -/
theorem regAt_cmd (p : Params) : regAt p 0x004 = some .cmd := rfl

/-- A write to CMD while BUSY = 0 submits its data as a command (10_state.md R24). -/
theorem hostWrite_cmd_of_idle {s : State} (hb : s.status.busy = false) (w : Word) :
    hostWrite s 0x004 w = accept w s := by
  have hcmd : regAt s.params (0x004 : BitVec 12).toNat = some .cmd := regAt_cmd s.params
  rw [hostWrite_of_idle hb, writeWindow_of_regAt hcmd, writeReg]

end Machine

end Sys2Proof
end

section
/-! The statements of 47_control.md on CLEAR and the reserved words. -/

namespace Sys2Proof.Machine

/-- Settles O4: the words that are not reserved are the numbers 1 to 8; an idle block accepts every word, and the
reserved operation is its completion with BAD_OPCODE. -/
theorem reservedWordChangesOnlyStatus : Obligations.ReservedWordChangesOnlyStatus := by
  unfold Obligations.ReservedWordChangesOnlyStatus
  intro w
  refine ⟨?reserved, ?accepted, ?completed⟩
  case reserved =>
    rw [opOf_eq_reserved_iff_toNat]
    omega
  case accepted =>
    intro s hop hb
    rw [hostWrite_cmd_of_idle hb, accept_status, accept_seq, hop]
    exact ⟨rfl, _, rfl⟩
  case completed =>
    intro s hop hseq hreset
    rw [step_of_due hseq hreset, hop, runOp_reserved]
    rfl

/-- Settles O60: CLEAR clears ERR_BUSY before its completion with OK, which keeps ERR_BUSY. -/
theorem clearResetsOnlyTheOverrunFlag : Obligations.ClearResetsOnlyTheOverrunFlag := by
  unfold Obligations.ClearResetsOnlyTheOverrunFlag
  exact ⟨decode_eq_ok_iff.2 rfl, exec_clear⟩

end Sys2Proof.Machine
end

section
/-! SUPPORT. Acceptance and the drop of a write, as steps of the machine (70_reset_and_hazards.md R285, R291): what an
aligned write does in the host's turn, and all that an accepted command leaves. -/

namespace Sys2Proof.Machine

/-- No reset is pending when the host's next action is a write. -/
theorem resetPending_of_wrEvent {s : State} {off : BitVec 12} {v : Word} {rest : List HostEvent}
    (hi : s.outside.inputs = wrEvent off v :: rest) : resetPending s = false := by
  simp only [resetPending, hi, wrEvent]

/-- An aligned 32-bit write has a meaning (20_memory.md R62), so the host's turn performs or drops it. -/
theorem hostTurn_of_wrEvent {s : State} {off : BitVec 12} {v : Word} {rest : List HostEvent}
    (hi : s.outside.inputs = wrEvent off v :: rest) (ha : off.toNat % 4 = 0) :
    hostTurn s = .next (hostWrite (withInputs s rest) off v) := by
  simp [hostTurn, hi, wrEvent, hostAccess, Access.wf, ha]

/-- While BUSY = 1 the drop of a write leaves BUSY, DONE and RESULT (R291). -/
theorem Status.overrun_of_busy {t : Status} (hb : t.busy = true) :
    t.overrun = { busy := true, done := t.done, result := t.result, errBusy := true } := by
  simp only [Status.overrun, hb]

/-- The step of a running operation in which the host writes: the latency passes and the write is dropped (R291). -/
theorem step_of_running_wrEvent {s : State} {op : Op} {n : Nat} {off : BitVec 12} {v : Word} {rest : List HostEvent}
    (hq : s.seq = .run op (n + 1)) (hb : s.status.busy = true) (hi : s.outside.inputs = wrEvent off v :: rest)
    (ha : off.toNat % 4 = 0) :
    step s = .next { s with
      seq := .run op n
      status := s.status.overrun
      outside := { s.outside with inputs := rest } } := by
  have hturn := hostTurn_of_wrEvent (s := { s with seq := .run op n }) hi ha
  have hdrop := hostWrite_of_busy (s := withInputs { s with seq := .run op n } rest) hb off v
  rw [step_of_running hq (resetPending_of_wrEvent hi), hturn, hdrop]
  rfl

/-- The draw of a latency changes only the latencies given and the count of draws. -/
theorem drawLatency_outside (o : Outside) :
    (drawLatency o).2 = { o with latencies := (drawLatency o).2.latencies, draws := (drawLatency o).2.draws } := by
  obtain ⟨n, rest, -, h⟩ | ⟨-, h⟩ := drawLatency_cases o <;> rw [h]

/-- All that an accepted command changes: SEQ, BUSY and DONE, and the draw of its latency (R285). -/
theorem accept_eq (w : Word) (s : State) :
    accept w s = { s with
      seq := .run (opOf w) (drawLatency s.outside).1
      status := s.status.accepted
      outside := { s.outside with
        latencies := (accept w s).outside.latencies, draws := (accept w s).outside.draws } } := by
  rw [accept_outside, ← drawLatency_outside]
  rfl

end Sys2Proof.Machine
end

section
/-! SUPPORT. What becomes of ERR_BUSY in a step (70_reset_and_hazards.md R291, 47_control.md R240): the stages of an
operation leave STATUS to its completion, and nothing in the host's turn but reset clears ERR_BUSY. -/

namespace Sys2Proof.Machine

/-! ### Operations -/

/-- The state a stage leaves, whether it goes on or has raised. -/
def Staged.state : Staged → State
  | .goesOn s => s
  | .raised _ s => s

/-- A stage that leaves STATUS as it is, raising or not. -/
def KeepsStatus (stage : State → Staged) : Prop := ∀ s, (stage s).state.status = s.status

theorem KeepsStatus.andThen {f g : State → Staged} (hf : KeepsStatus f) (hg : KeepsStatus g) :
    KeepsStatus fun s => (f s).andThen g := by
  intro s
  rw [← hf s]
  beta_reduce
  cases f s with
  | goesOn u => exact hg u
  | raised r u => rfl

/-- An operation whose stages leave STATUS ends with its completion as the only change of STATUS. -/
theorem KeepsStatus.finish {stages : State → Staged} (hk : KeepsStatus stages) {s t : State}
    (h : (stages s).finish = .next t) : ∃ r, t.status = s.status.completed r := by
  rw [← hk s]
  obtain ⟨u, hu, rfl⟩ | ⟨r, u, hu, rfl⟩ := Staged.finish_next h
  · exact ⟨.ok, by rw [hu, complete_status, Staged.state]⟩
  · exact ⟨r, by rw [hu, complete_status, Staged.state]⟩

theorem keepsStatus_decodeStage : KeepsStatus decodeStage := fun _ => rfl

theorem keepsStatus_validateStage : KeepsStatus validateStage := fun _ => rfl

theorem keepsStatus_truncStage : KeepsStatus truncStage := fun _ => rfl

theorem keepsStatus_keyStage : KeepsStatus keyStage := by
  intro s
  by_cases h : s.regs.keyLen = 0
  · rw [keyStage_of_eq h, Staged.state]
  · rw [keyStage_of_ne h, Staged.state]

theorem keepsStatus_packStage : KeepsStatus packStage := by
  intro s
  by_cases h : s.regs.window = 0
  · rw [packStage_of_eq h, Staged.state]
  · rw [packStage_of_ne h, Staged.state]

theorem keepsStatus_tremStage : KeepsStatus tremStage := by
  intro s
  by_cases h : s.regs.window = 0
  · rw [tremStage_of_eq h, Staged.state]
  · rw [tremStage_of_ne h, Staged.state]

theorem keepsStatus_digestStage : KeepsStatus digestStage := by
  intro s
  obtain ⟨-, h⟩ | ⟨-, -, h⟩ | ⟨-, -, h⟩ := digestStage_cases s <;>
    simp only [h, Staged.state, digestCommitted]

theorem keepsStatus_generateStages : KeepsStatus generateStages :=
  (((keepsStatus_decodeStage.andThen keepsStatus_keyStage).andThen keepsStatus_packStage).andThen
    keepsStatus_digestStage).andThen keepsStatus_truncStage

/-- Every command but CLEAR is a run of stages that leave STATUS. -/
theorem exists_keepsStatus_exec {i : Instr} (hi : i ≠ .clear) :
    ∃ stages, KeepsStatus stages ∧ ∀ s, exec i s = (stages s).finish := by
  cases i with
  | decode => exact ⟨decodeStage, keepsStatus_decodeStage, fun _ => rfl⟩
  | validate => exact ⟨validateStage, keepsStatus_validateStage, fun _ => rfl⟩
  | pack => exact ⟨packStage, keepsStatus_packStage, fun _ => rfl⟩
  | hmac => exact ⟨_, keepsStatus_keyStage.andThen keepsStatus_digestStage, fun _ => rfl⟩
  | trunc => exact ⟨truncStage, keepsStatus_truncStage, fun _ => rfl⟩
  | trem => exact ⟨tremStage, keepsStatus_tremStage, fun _ => rfl⟩
  | generate => exact ⟨generateStages, keepsStatus_generateStages, fun _ => rfl⟩
  | clear => exact absurd rfl hi

/-- Every operation but CLEAR changes STATUS by its completion alone (70_reset_and_hazards.md R286). -/
theorem runOp_status {op : Op} (hop : op ≠ .cmd .clear) {s t : State} (h : runOp op s = .next t) :
    ∃ r, t.status = s.status.completed r := by
  cases op with
  | reserved =>
    obtain rfl := Host.Outcome.next.inj h
    exact ⟨.badOpcode, complete_status _ _⟩
  | cmd i =>
    obtain ⟨stages, hkeeps, hexec⟩ := exists_keepsStatus_exec (fun hi => hop (congrArg Op.cmd hi))
    exact hkeeps.finish ((hexec s).symm.trans h)

/-! ### The host's turn -/

/-- A write that is performed keeps ERR_BUSY, an acceptance included (R285). -/
theorem writeReg_errBusy (s : State) (r : Reg) (v : Word) :
    (writeReg s r v).status.errBusy = s.status.errBusy := by
  by_cases h : r = .cmd
  · rw [h, writeReg, accept_status, Status.accepted_errBusy]
  · rw [writeReg_of_ne_cmd h]

theorem writeWindow_errBusy (s : State) (off : Nat) (v : Word) :
    (writeWindow s off v).status.errBusy = s.status.errBusy := by
  cases h : regAt s.params off with
  | none => simp only [writeWindow, h]
  | some r => rw [writeWindow_of_regAt h, writeReg_errBusy]

/-- A write sets ERR_BUSY or keeps it. -/
theorem hostWrite_errBusy (s : State) (off : BitVec 12) (v : Word) :
    (hostWrite s off v).status.errBusy = (s.status.busy || s.status.errBusy) := by
  cases hb : s.status.busy with
  | true => rw [hostWrite_of_busy hb, Status.overrun_errBusy, Bool.true_or]
  | false => rw [hostWrite_of_idle hb, writeWindow_errBusy, Bool.false_or]

theorem pollStatus_status (rest : List HostEvent) (s : State) : (pollStatus rest s).status = s.status := by
  unfold pollStatus
  split
  · exact hostRead_status s _
  · rw [withInputs_status, hostRead_status]

/-- No transaction clears ERR_BUSY. -/
theorem hostAccess_keeps_errBusy {a : Access} {s t : State} (h : hostAccess a s = .next t)
    (he : s.status.errBusy = true) : t.status.errBusy = true := by
  obtain ⟨-, ⟨-, rfl⟩ | ⟨-, rfl⟩⟩ := hostAccess_next h
  · rw [hostRead_status, he]
  · rw [hostWrite_errBusy, he, Bool.or_true]

/-- While no reset is pending, nothing the host does clears ERR_BUSY. -/
theorem hostTurn_keeps_errBusy {s t : State} (hr : resetPending s = false) (h : hostTurn s = .next t)
    (he : s.status.errBusy = true) : t.status.errBusy = true := by
  obtain ⟨-, rfl⟩ | ⟨rest, -, rfl⟩ | ⟨rest, hi, -⟩ | ⟨a, rest, -, ha⟩ | ⟨rest, -, rfl⟩ := hostTurn_next h
  · exact he
  · rwa [withInputs_status]
  · exact absurd ((resetPending_iff s).2 ⟨rest, hi⟩) (by simp [hr])
  · exact hostAccess_keeps_errBusy ha (by rwa [withInputs_status])
  · rwa [pollStatus_status]

/-! ### The step -/

/-- ERR_BUSY stays 1 in a step that is neither a reset nor the completion of CLEAR. -/
theorem step_keeps_errBusy {s t : State} (h : step s = .next t) (hr : resetPending s = false)
    (hclear : s.seq ≠ .run (.cmd .clear) 0) (he : s.status.errBusy = true) : t.status.errBusy = true := by
  obtain ⟨rest, hi, -⟩ | ⟨-, op, hq, hrun⟩ | ⟨-, op, n, -, hturn⟩ | ⟨-, -, hturn⟩ := step_next h
  · exact absurd ((resetPending_iff s).2 ⟨rest, hi⟩) (by simp [hr])
  · obtain ⟨r, ht⟩ := runOp_status (fun hop => hclear (hop ▸ hq)) hrun
    rw [ht, Status.completed_errBusy, he]
  · exact hostTurn_keeps_errBusy (s := { s with seq := .run op n }) hr hturn he
  · exact hostTurn_keeps_errBusy hr hturn he

end Sys2Proof.Machine
end

section
/-! The statements of 70_reset_and_hazards.md on a command write while idle and on any write while busy. -/

namespace Sys2Proof.Machine

/-- Settles O10: the step of an idle block is the host's turn, and its write to CMD is the acceptance of the word. -/
theorem commandWriteIsAccepted : Obligations.CommandWriteIsAccepted := by
  unfold Obligations.CommandWriteIsAccepted
  intro s w rest hseq hbusy hinputs
  have hturn : hostTurn s = .next (hostWrite (withInputs s rest) 0x004 w) := hostTurn_of_wrEvent hinputs rfl
  have haccept : hostWrite (withInputs s rest) 0x004 w = accept w (withInputs s rest) :=
    hostWrite_cmd_of_idle (by rwa [withInputs_status]) w
  refine ⟨(drawLatency (withInputs s rest).outside).1, accept w (withInputs s rest), ?step, ?frame⟩
  case step => rw [step_of_idle hseq, hturn, haccept]
  case frame => exact accept_eq w (withInputs s rest)

/-- Settles O16: a running operation's step is the host's turn, which drops the write; and every step but a reset and
the completion of CLEAR keeps ERR_BUSY. -/
theorem writeWhileBusyIsDropped : Obligations.WriteWhileBusyIsDropped := by
  unfold Obligations.WriteWhileBusyIsDropped
  refine ⟨?dropped, ?kept⟩
  case dropped =>
    intro s op n off v rest hseq hbusy hinputs halign
    rw [step_of_running_wrEvent hseq hbusy hinputs halign, Status.overrun_of_busy hbusy]
  case kept =>
    intro s t hstep hset hcleared
    by_contra hother
    obtain ⟨hreset, hclear⟩ := not_or.1 hother
    have hkept := step_keeps_errBusy hstep (eq_false_of_ne_true hreset) hclear hset
    exact Bool.false_ne_true (hcleared.symm.trans hkept)

end Sys2Proof.Machine
end

section
/-! SUPPORT. What a command does between its acceptance and its completion: its stages make commits, each one of the
command's row of 30_encoding.md R86, and end with a result of its row of R85. A fact about all commands is proved on the
single commits. -/

namespace Sys2Proof.Machine

/-- The stages of a command, which its completion follows (30_encoding.md R86). -/
def stagesOf : Instr → State → Staged
  | .decode => decodeStage
  | .validate => validateStage
  | .pack => packStage
  | .hmac => fun s => (keyStage s).andThen digestStage
  | .trunc => truncStage
  | .trem => tremStage
  | .generate => generateStages
  | .clear => fun s => .goesOn { s with status := s.status.clearOverrun }

/-- The result that ends an operation after these stages. -/
def Staged.result : Staged → ResultCode
  | .goesOn _ => .ok
  | .raised r _ => r

/-- A command always answers: with the completion of what its stages leave (70_reset_and_hazards.md R286). -/
theorem exec_eq_complete (i : Instr) (s : State) :
    exec i s = .next (complete (stagesOf i s).result (stagesOf i s).state) := by
  have hstages : exec i s = (stagesOf i s).finish := by cases i <;> rfl
  rw [hstages]
  cases stagesOf i s <;> rfl

theorem exec_next {i : Instr} {s t : State} (h : exec i s = .next t) :
    t = complete (stagesOf i s).result (stagesOf i s).state :=
  Host.Outcome.next.inj (h.symm.trans (exec_eq_complete i s))

/-- One commit of the command `i`, as its stages make them. -/
inductive Commit : Instr → State → State → Prop where
  | decode {i : Instr} (hi : i = .decode ∨ i = .generate) (s : State) :
      Commit i s { s with regs := commitDecode (b32decode (secretString s.regs)) s.regs }
  | validate (s : State) (b : Bool) : Commit .validate s { s with regs := { s.regs with valid := b } }
  | pack {i : Instr} (hi : i = .pack ∨ i = .generate) (s : State) :
      Commit i s { s with regs := commitPack s.regs.window.toNat s.regs }
  | trem (s : State) : Commit .trem s { s with regs := commitTrem s.regs.window.toNat s.regs }
  | library {i : Instr} (hi : i = .hmac ∨ i = .generate) (s : State) :
      Commit i s { s with outside := (drawLibrary s.outside).2 }
  | digest {i : Instr} (hi : i = .hmac ∨ i = .generate) (s : State) (d : Vector Byte 20) :
      Commit i s { s with regs := { s.regs with digest := d } }
  | trunc {i : Instr} (hi : i = .trunc ∨ i = .generate) (s : State) : Commit i s { s with regs := commitTrunc s.regs }
  | clear (s : State) : Commit .clear s { s with status := s.status.clearOverrun }

/-- From `s` to `t` by commits of the command `i`. -/
abbrev Commits (i : Instr) : State → State → Prop := Relation.ReflTransGen (Commit i)

/-- What no commit of any command writes: the host's operands, the host's side of what is outside, the latencies. -/
structure KeepsHostSide (s t : State) : Prop where
  params : t.params = s.params
  secret : t.regs.secret = s.regs.secret
  secretLen : t.regs.secretLen = s.regs.secretLen
  window : t.regs.window = s.regs.window
  timeLo : t.regs.timeLo = s.regs.timeLo
  timeHi : t.regs.timeHi = s.regs.timeHi
  inputs : t.outside.inputs = s.outside.inputs
  reads : t.outside.reads = s.outside.reads
  latencies : t.outside.latencies = s.outside.latencies

theorem KeepsHostSide.refl (s : State) : KeepsHostSide s s := ⟨rfl, rfl, rfl, rfl, rfl, rfl, rfl, rfl, rfl⟩

theorem KeepsHostSide.trans {s t u : State} (h : KeepsHostSide s t) (h' : KeepsHostSide t u) : KeepsHostSide s u where
  params := h'.params.trans h.params
  secret := h'.secret.trans h.secret
  secretLen := h'.secretLen.trans h.secretLen
  window := h'.window.trans h.window
  timeLo := h'.timeLo.trans h.timeLo
  timeHi := h'.timeHi.trans h.timeHi
  inputs := h'.inputs.trans h.inputs
  reads := h'.reads.trans h.reads
  latencies := h'.latencies.trans h.latencies

theorem Commit.keepsHostSide {i : Instr} {s t : State} (h : Commit i s t) : KeepsHostSide s t := by
  cases h with
  | library =>
    obtain ⟨hinputs, hreads, hlatencies⟩ := drawLibrary_keeps s.outside
    exact ⟨rfl, rfl, rfl, rfl, rfl, rfl, hinputs, hreads, hlatencies⟩
  | _ => exact ⟨rfl, rfl, rfl, rfl, rfl, rfl, rfl, rfl, rfl⟩

theorem Commits.keepsHostSide {i : Instr} {s t : State} (h : Commits i s t) : KeepsHostSide s t := by
  induction h with
  | refl => exact .refl s
  | tail _ hcommit ih => exact ih.trans hcommit.keepsHostSide

/-- A stage that belongs to the command `i`: it makes commits of `i` only, and raises only results of `i`'s row of
30_encoding.md R85. -/
def StageOf (i : Instr) (stage : State → Staged) : Prop :=
  ∀ s, Commits i s (stage s).state ∧ mayResult s.params.backend i (stage s).result = true

theorem mayResult_ok (b : Backend) (i : Instr) : mayResult b i .ok = true := by
  cases i <;> rfl

theorem StageOf.andThen {i : Instr} {f g : State → Staged} (hf : StageOf i f) (hg : StageOf i g) :
    StageOf i fun s => (f s).andThen g := by
  intro s
  obtain ⟨hcommits, hresult⟩ := hf s
  beta_reduce
  cases hs : f s <;> rw [hs] at hcommits hresult
  case goesOn u =>
    obtain ⟨hcommits', hresult'⟩ := hg u
    exact ⟨hcommits.trans hcommits', hcommits.keepsHostSide.params ▸ hresult'⟩
  case raised r u => exact ⟨hcommits, hresult⟩

theorem stageOf_decodeStage {i : Instr} (hi : i = .decode ∨ i = .generate) : StageOf i decodeStage :=
  fun s => ⟨.single (.decode hi s), mayResult_ok _ i⟩

theorem stageOf_validateStage : StageOf .validate validateStage :=
  fun s => ⟨.single (.validate s _), mayResult_ok _ _⟩

theorem stageOf_truncStage {i : Instr} (hi : i = .trunc ∨ i = .generate) : StageOf i truncStage :=
  fun s => ⟨.single (.trunc hi s), mayResult_ok _ i⟩

theorem stageOf_keyStage {i : Instr} (hi : i = .hmac ∨ i = .generate) : StageOf i keyStage := by
  intro s
  by_cases hkey : s.regs.keyLen = 0
  · rw [keyStage_of_eq hkey]
    exact ⟨.refl, by obtain rfl | rfl := hi <;> rfl⟩
  · rw [keyStage_of_ne hkey]
    exact ⟨.refl, mayResult_ok _ i⟩

theorem stageOf_packStage {i : Instr} (hi : i = .pack ∨ i = .generate) : StageOf i packStage := by
  intro s
  by_cases hwindow : s.regs.window = 0
  · rw [packStage_of_eq hwindow]
    exact ⟨.refl, by obtain rfl | rfl := hi <;> rfl⟩
  · rw [packStage_of_ne hwindow]
    exact ⟨.single (.pack hi s), mayResult_ok _ i⟩

theorem stageOf_tremStage : StageOf .trem tremStage := by
  intro s
  by_cases hwindow : s.regs.window = 0
  · rw [tremStage_of_eq hwindow]
    exact ⟨.refl, rfl⟩
  · rw [tremStage_of_ne hwindow]
    exact ⟨.single (.trem s), mayResult_ok _ _⟩

theorem stageOf_digestStage {i : Instr} (hi : i = .hmac ∨ i = .generate) : StageOf i digestStage := by
  intro s
  obtain ⟨-, h⟩ | ⟨-, -, h⟩ | ⟨hbackend, -, h⟩ := digestStage_cases s <;> rw [h]
  · exact ⟨.single (.digest hi s _), mayResult_ok _ i⟩
  · exact ⟨.tail (.single (.library hi s)) (.digest hi _ _), mayResult_ok _ i⟩
  · exact ⟨.single (.library hi s), by rw [hbackend]; obtain rfl | rfl := hi <;> rfl⟩

theorem stageOf_clear : StageOf .clear fun s => .goesOn { s with status := s.status.clearOverrun } :=
  fun s => ⟨.single (.clear s), mayResult_ok _ _⟩

/-- The stages of a command belong to it. -/
theorem stageOf_stagesOf (i : Instr) : StageOf i (stagesOf i) := by
  cases i with
  | decode => exact stageOf_decodeStage (.inl rfl)
  | validate => exact stageOf_validateStage
  | pack => exact stageOf_packStage (.inl rfl)
  | hmac => exact (stageOf_keyStage (.inl rfl)).andThen (stageOf_digestStage (.inl rfl))
  | trunc => exact stageOf_truncStage (.inl rfl)
  | trem => exact stageOf_tremStage
  | generate =>
    have digested := (((stageOf_decodeStage (.inr rfl)).andThen (stageOf_keyStage (.inr rfl))).andThen
      (stageOf_packStage (.inr rfl))).andThen (stageOf_digestStage (.inr rfl))
    exact digested.andThen (stageOf_truncStage (.inr rfl))
  | clear => exact stageOf_clear

/-- A command ends with the completion of a state its commits lead to. -/
theorem exec_commits {i : Instr} {s t : State} (h : exec i s = .next t) : ∃ r u, Commits i s u ∧ t = complete r u :=
  ⟨_, _, (stageOf_stagesOf i s).1, exec_next h⟩

end Sys2Proof.Machine
end

section
/-! SUPPORT. What the turn of the host can do while no reset is pending: act outside the block alone, or write to the
window. -/

namespace Sys2Proof.Machine

/-- What an action of the host other than a write leaves outside the block: the latencies and the answers given, and of
the actions to come no new one. -/
structure HostActed (o o' : Outside) : Prop where
  latencies : o'.latencies = o.latencies
  library : o'.library = o.library
  inputs : o'.inputs ⊆ o.inputs

theorem hostRead_acted (s : State) (off : BitVec 12) :
    ∃ o, hostRead s off = { s with outside := o } ∧ HostActed s.outside o := by
  obtain ⟨v, d, h⟩ := hostRead_eq s off
  exact ⟨_, h, rfl, rfl, fun _ h => h⟩

theorem withInputs_acted {s : State} {e : HostEvent} {rest : List HostEvent} (hi : s.outside.inputs = e :: rest) :
    HostActed s.outside (withInputs s rest).outside :=
  ⟨rfl, rfl, hi ▸ List.subset_cons_self e rest⟩

theorem HostActed.trans {a b c : Outside} (h : HostActed a b) (h' : HostActed b c) : HostActed a c :=
  ⟨h'.latencies.trans h.latencies, h'.library.trans h.library, List.Subset.trans h'.inputs h.inputs⟩

theorem pollStatus_acted {s : State} {rest : List HostEvent} (hi : s.outside.inputs = .wait :: rest) :
    ∃ o, pollStatus rest s = { s with outside := o } ∧ HostActed s.outside o := by
  obtain ⟨v, d, h⟩ := hostRead_eq s 0x008
  unfold pollStatus
  split <;> rw [h]
  · exact ⟨_, rfl, rfl, rfl, fun _ h => h⟩
  · exact ⟨_, rfl, rfl, rfl, hi ▸ List.subset_cons_self _ rest⟩

/-- What the host's turn can do while no reset is pending. -/
theorem hostTurn_cases {s t : State} (h : hostTurn s = .next t) (hr : resetPending s = false) :
    (∃ o, t = { s with outside := o } ∧ HostActed s.outside o) ∨
    ∃ a rest, s.outside.inputs = .access a :: rest ∧ a.dir = .write ∧
      t = hostWrite (withInputs s rest) a.offset a.data := by
  obtain ⟨-, rfl⟩ | ⟨rest, hi, rfl⟩ | ⟨rest, hi, -⟩ | ⟨a, rest, hi, ha⟩ | ⟨rest, hi, rfl⟩ := hostTurn_next h
  · exact .inl ⟨_, rfl, rfl, rfl, fun _ h => h⟩
  · exact .inl ⟨_, rfl, withInputs_acted hi⟩
  · exact absurd ((resetPending_iff s).2 ⟨rest, hi⟩) (by simp [hr])
  · obtain ⟨-, ⟨-, rfl⟩ | ⟨hwrite, rfl⟩⟩ := hostAccess_next ha
    · obtain ⟨o, hread, hacted⟩ := hostRead_acted (withInputs s rest) a.offset
      exact .inl ⟨o, hread, (withInputs_acted hi).trans hacted⟩
    · exact .inr ⟨a, rest, hi, hwrite, rfl⟩
  · exact .inl (pollStatus_acted hi)

end Sys2Proof.Machine
end

section
/-! SUPPORT. The invariant is kept by every single thing a step does: a commit, a completion, a write, a reset. -/

namespace Sys2Proof.Machine

/-! ### Registers -/

theorem clampLen_toNat (cap : Nat) (v : Word) : (clampLen cap v).toNat = min v.toNat cap := by
  have hlt : min v.toNat cap < 2 ^ 32 := (Nat.min_le_left _ _).trans_lt v.isLt
  rw [clampLen, BitVec.toNat_ofNat, Nat.mod_eq_of_lt hlt]

theorem clampLen_toNat_le (cap : Nat) (v : Word) : (clampLen cap v).toNat ≤ cap :=
  clampLen_toNat cap v ▸ Nat.min_le_right _ _

theorem RegsInv.afterReset (p : Params) (d : Nat) : RegsInv p (Regs.afterReset p d) where
  keySize := by simp [Regs.afterReset]
  secretSize := by simp [Regs.afterReset]
  secretLenLegal := Nat.zero_le _
  keyLenLegal := Nat.zero_le _
  hintLegal := Nat.zero_le _
  nvalidLegal := Nat.zero_le _
  residualCount := rfl
  residualBits := Nat.one_pos
  epochBound := Nat.two_pow_pos 55
  counterBound := Nat.two_pow_pos 55
  otpReduced := rfl
  codeSpelled := .inr ⟨rfl, rfl, rfl⟩

/-- A host write to a register keeps the registers legal: the lengths are clamped, a buffer keeps its size. -/
theorem RegsInv.storeReg {p : Params} {rs : Regs} (h : RegsInv p rs) (r : Reg) (v : Word) :
    RegsInv p (storeReg p rs r v) := by
  cases r with
  | secretLen => exact { h with secretLenLegal := clampLen_toNat_le _ _ }
  | keyLen => exact { h with keyLenLegal := clampLen_toNat_le _ _ }
  | key i => exact { h with keySize := List.length_set.trans h.keySize }
  | secret i => exact { h with secretSize := List.length_set.trans h.secretSize }
  | _ => exact { h with }

theorem RegsInv.commitDecode {p : Params} {rs : Regs} (hp : p.wf = true) (h : RegsInv p rs) :
    RegsInv p (commitDecode (b32decode (secretString rs)) rs) := by
  obtain ⟨-, -, hkeySize, hkeyLen, hcapHint, hrcnt, hrbits, hnvalid⟩ := commitDecode_outputs hp h
  have hs := h.secretString_length_le
  have hk := alphabetValues_length_le (secretString rs)
  have hN := normalize_length_le (secretString rs)
  exact { h with
    keySize := hkeySize.trans h.keySize
    keyLenLegal := by rw [hkeyLen, Params.keyCap]; omega
    hintLegal := by rw [hcapHint, Params.keyCap]; omega
    nvalidLegal := by rw [hnvalid]; omega
    residualCount := by rw [hrcnt, hnvalid]
    residualBits := by rw [hrcnt, hrbits]; exact closedResidual_lt _ }

theorem hostSeconds_lt (r : Regs) : hostSeconds r < 2 ^ 55 := epochOf_timeMs r ▸ epochOf_timeMs_lt r

theorem RegsInv.commitPack {p : Params} {rs : Regs} (h : RegsInv p rs) :
    RegsInv p (commitPack rs.window.toNat rs) := by
  obtain ⟨hepoch, hcounter, -⟩ := commitPack_outputs rs
  exact { h with
    epochBound := hepoch ▸ hostSeconds_lt rs
    counterBound := hcounter ▸ (Nat.div_le_self _ _).trans_lt (hostSeconds_lt rs) }

theorem RegsInv.commitTrem {p : Params} {rs : Regs} (h : RegsInv p rs) (w : Nat) : RegsInv p (commitTrem w rs) :=
  { h with epochBound := commitTrem_epoch_toNat w rs ▸ hostSeconds_lt rs }

theorem RegsInv.commitTrunc {p : Params} {rs : Regs} (h : RegsInv p rs) : RegsInv p (commitTrunc rs) :=
  { h with
    otpReduced := (commitTrunc_outputs rs).otp
    codeSpelled := .inl (by rw [commitTrunc_code, commitTrunc_otp, otp_toNat]) }

theorem RegsInv.digest {p : Params} {rs : Regs} (h : RegsInv p rs) (d : Vector Byte 20) :
    RegsInv p { rs with digest := d } := { h with }

/-- Every commit of a command keeps the registers legal. -/
theorem Commit.keeps_regsInv {i : Instr} {s t : State} (h : Commit i s t) (hp : s.params.wf = true)
    (hs : RegsInv s.params s.regs) : RegsInv t.params t.regs := by
  cases h with
  | decode => exact hs.commitDecode hp
  | validate => exact { hs with }
  | pack => exact hs.commitPack
  | trem => exact hs.commitTrem _
  | library | clear => exact hs
  | digest => exact hs.digest _
  | trunc => exact hs.commitTrunc

theorem Commits.keeps_regsInv {i : Instr} {s t : State} (h : Commits i s t) (hp : s.params.wf = true)
    (hs : RegsInv s.params s.regs) : RegsInv t.params t.regs := by
  induction h with
  | refl => exact hs
  | tail hcommits hcommit ih =>
    have hp' := (Commits.keepsHostSide hcommits).params.symm ▸ hp
    exact hcommit.keeps_regsInv hp' ih

/-! ### The machine -/

/-- The invariant says nothing of what is outside the block. -/
theorem Inv.outside {s : State} (h : Inv s) (o : Outside) : Inv { s with outside := o } :=
  ⟨h.paramsLegal, h.regsLegal, h.busyRuns, h.busyNotDone⟩

/-- After a completion the block is idle with BUSY = 0, so only the registers matter. -/
theorem Inv.of_complete {s : State} (hp : s.params.wf = true) (hs : RegsInv s.params s.regs) (r : ResultCode) :
    Inv (complete r s) where
  paramsLegal := hp
  regsLegal := hs
  busyRuns := by simp
  busyNotDone := by simp

theorem Inv.resetBlock {s : State} (h : Inv s) : Inv (resetBlock s) where
  paramsLegal := h.paramsLegal
  regsLegal := RegsInv.afterReset _ _
  busyRuns := by simp [Status.afterReset]
  busyNotDone := by simp [Status.afterReset]

/-- An operation that runs keeps running while its latency passes. -/
theorem Inv.tick {s : State} (h : Inv s) {op : Op} {n : Nat} (hq : s.seq = .run op (n + 1)) :
    Inv { s with seq := .run op n } where
  paramsLegal := h.paramsLegal
  regsLegal := h.regsLegal
  busyRuns := by simp [h.busyRuns, hq]
  busyNotDone := h.busyNotDone

theorem Inv.accept {s : State} (h : Inv s) (w : Word) : Inv (accept w s) where
  paramsLegal := by simpa using h.paramsLegal
  regsLegal := by simpa using h.regsLegal
  busyRuns := by simp
  busyNotDone := by simp

theorem Inv.writeReg {s : State} (h : Inv s) (r : Reg) (v : Word) : Inv (writeReg s r v) := by
  by_cases hcmd : r = .cmd
  · rw [hcmd]
    exact h.accept v
  · rw [writeReg_of_ne_cmd hcmd]
    exact ⟨h.paramsLegal, h.regsLegal.storeReg r v, h.busyRuns, h.busyNotDone⟩

theorem Inv.hostWrite {s : State} (h : Inv s) (off : BitVec 12) (v : Word) : Inv (hostWrite s off v) := by
  cases hb : s.status.busy with
  | true =>
    rw [hostWrite_of_busy hb]
    exact ⟨h.paramsLegal, h.regsLegal, h.busyRuns, h.busyNotDone⟩
  | false =>
    rw [hostWrite_of_idle hb]
    cases hr : regAt s.params off.toNat with
    | none => simpa only [writeWindow, hr] using h
    | some r => exact writeWindow_of_regAt hr v ▸ h.writeReg r v

theorem Inv.hostTurn {s t : State} (hs : Inv s) (h : hostTurn s = .next t) (hr : resetPending s = false) : Inv t := by
  obtain ⟨o, rfl, -⟩ | ⟨a, rest, -, -, rfl⟩ := hostTurn_cases h hr
  · exact hs.outside o
  · exact (hs.outside _).hostWrite _ _

theorem Inv.runOp {s t : State} (hs : Inv s) {op : Op} (h : runOp op s = .next t) : Inv t := by
  cases op with
  | reserved =>
    obtain rfl := Host.Outcome.next.inj h
    exact .of_complete hs.paramsLegal hs.regsLegal _
  | cmd i =>
    obtain ⟨r, u, hcommits, rfl⟩ := exec_commits h
    exact .of_complete (hcommits.keepsHostSide.params.symm ▸ hs.paramsLegal)
      (hcommits.keeps_regsInv hs.paramsLegal hs.regsLegal) r

end Sys2Proof.Machine
end

section
/-! The statements on the invariant: it holds at reset and every step keeps it. -/

namespace Sys2Proof.Machine

/-- Settles O27: a step is a reset, a completion or the host's turn, and each keeps the invariant. -/
theorem everyStepKeepsTheInvariant : Obligations.EveryStepKeepsTheInvariant := by
  unfold Obligations.EveryStepKeepsTheInvariant
  intro s t hinv hstep
  obtain ⟨rest, -, rfl⟩ | ⟨-, op, -, hrun⟩ | ⟨hreset, op, n, hseq, hturn⟩ | ⟨hreset, -, hturn⟩ := step_next hstep
  · exact (hinv.outside _).resetBlock
  · exact hinv.runOp hrun
  · exact (hinv.tick hseq).hostTurn hturn hreset
  · exact hinv.hostTurn hturn hreset

/-- Settles O8: the registers after any reset are legal, and the block is idle with STATUS 0. -/
theorem resetMeetsTheInvariant : Obligations.ResetMeetsTheInvariant where
  paramsLegal := rfl
  regsLegal := RegsInv.afterReset _ _
  busyRuns := by simp [State.reset, Status.afterReset]
  busyNotDone := by simp [State.reset, Status.afterReset]

end Sys2Proof.Machine
end

section
/-! SUPPORT. The words of spec/opcode_table.json through the decoder (30_encoding.md R81, R82). -/

namespace Sys2Proof

theorem decode_encode (i : Instr) : decode (encode i) = .ok i := decode_eq_ok_iff.2 rfl

theorem decodeTableWord_eq_some_iff {nbits w : Nat} {i : Instr} :
    decodeTableWord nbits w = some i ↔ decode (tableWord nbits w) = .ok i := by
  rw [decodeTableWord]
  cases decode (tableWord nbits w) <;> simp [Except.toOption]

theorem tableWord_toNat (w : Word) : tableWord 32 w.toNat = w := by
  rw [tableWord, Nat.mod_eq_of_lt w.isLt, BitVec.ofNat_toNat, BitVec.setWidth_eq]

/-- The 32 bits of a command word are read as its command (R81). -/
theorem decodeTableWord_encode (i : Instr) : decodeTableWord 32 (encode i).toNat = some i := by
  rw [decodeTableWord_eq_some_iff, tableWord_toNat, decode_encode]

/-- No command is read from a word that is none of the numbers 1 to 8 (R82). -/
theorem decodeTableWord_eq_none {w : Word} (h : ¬ (1 ≤ w.toNat ∧ w.toNat ≤ 8)) : decodeTableWord 32 w.toNat = none := by
  refine Option.eq_none_iff_forall_ne_some.2 fun i hi => h (exists_eq_encode_iff.1 ⟨i, ?_⟩)
  rwa [decodeTableWord_eq_some_iff, tableWord_toNat, decode_eq_ok_iff] at hi

end Sys2Proof
end

section
/-! The statements of 30_encoding.md on the table's words, and of the step that runs a word. -/

namespace Sys2Proof.Machine

/-- Settles O2: the eight words are the encodings of the commands; the four others are none of the numbers 1 to 8. -/
theorem specWordsDecodeAsTheTableSays : Obligations.SpecWordsDecodeAsTheTableSays := by
  unfold Obligations.SpecWordsDecodeAsTheTableSays
  have reserved (w : Word) (h : ¬ (1 ≤ w.toNat ∧ w.toNat ≤ 8)) := decodeTableWord_eq_none h
  exact ⟨decodeTableWord_encode .decode, decodeTableWord_encode .validate, decodeTableWord_encode .pack,
    decodeTableWord_encode .hmac, decodeTableWord_encode .trunc, decodeTableWord_encode .trem,
    decodeTableWord_encode .generate, decodeTableWord_encode .clear, reserved 0x00000000 (by decide),
    reserved 0x00000009 (by decide), reserved 0x00000011 (by decide), reserved 0xFFFFFFFF (by decide)⟩

/-- Settles O3: the decoder inverts the encoder, of a word and of its 32 bits. -/
theorem encodedCommandDecodesBack : Obligations.EncodedCommandDecodesBack := by
  unfold Obligations.EncodedCommandDecodesBack
  exact fun i _ => ⟨decode_encode i, decodeTableWord_encode i⟩

/-- Settles O12: the step of a due operation runs it, and the operation of a word that decodes is its command. -/
theorem stepRunsTheDecodedCommand : Obligations.StepRunsTheDecodedCommand := by
  unfold Obligations.StepRunsTheDecodedCommand
  intro s w i hdecode _ hseq hreset
  rw [step_of_due hseq hreset, opOf_of_decode hdecode, runOp]

/-- Settles O13: a placed word is an operation that is due, with no reset pending. -/
theorem placedWordIsRunNext : Obligations.PlacedWordIsRunNext := by
  unfold Obligations.PlacedWordIsRunNext
  intro s w i hdecode
  rw [State.withFetchWord, step_of_due (placed_seq _ s) (resetPending_placed _ s),
    opOf_of_decode (decodeTableWord_eq_some_iff.1 hdecode), runOp]

end Sys2Proof.Machine
end

section
/-! SUPPORT. What every operation leaves alone, read off its commits (30_encoding.md R86, 10_state.md R20). -/

namespace Sys2Proof.Machine

/-- Every operation answers with the completion of a state that keeps the host's side. -/
theorem runOp_eq_complete (op : Op) (s : State) :
    ∃ r u, runOp op s = .next (complete r u) ∧ KeepsHostSide s u := by
  cases op with
  | reserved => exact ⟨_, _, runOp_reserved s, .refl s⟩
  | cmd i => exact ⟨_, _, exec_eq_complete i s, (stageOf_stagesOf i s).1.keepsHostSide⟩

/-- A commit writes only registers of its command's row, and STATUS (30_encoding.md R86). -/
theorem Commit.readReg_eq {i : Instr} {s t : State} (h : Commit i s t) {r : Reg} (hr : mayWrite i r = false) :
    readReg t r = readReg s r := by
  cases h with
  | decode hi =>
    cases r with
    | key | keyLen | capHint | decResid | decNvalid => obtain rfl | rfl := hi <;> cases hr
    | _ => rfl
  | validate =>
    cases r with
    | valid => cases hr
    | _ => rfl
  | pack hi =>
    cases r with
    | epochLo | epochHi | counterLo | counterHi | msg => obtain rfl | rfl := hi <;> cases hr
    | _ => rfl
  | trem =>
    cases r with
    | epochLo | epochHi | trem => cases hr
    | _ => rfl
  | library => cases r <;> rfl
  | digest hi =>
    cases r with
    | digest => obtain rfl | rfl := hi <;> cases hr
    | _ => rfl
  | trunc hi =>
    cases r with
    | offset | binary | otp | code => obtain rfl | rfl := hi <;> cases hr
    | _ => rfl
  | clear =>
    cases r with
    | status => cases hr
    | _ => rfl

theorem Commits.readReg_eq {i : Instr} {s t : State} (h : Commits i s t) {r : Reg} (hr : mayWrite i r = false) :
    readReg t r = readReg s r := by
  induction h with
  | refl => rfl
  | tail _ hcommit ih => exact (hcommit.readReg_eq hr).trans ih

/-- A completion writes no register but STATUS, which every command may write. -/
theorem readReg_complete {i : Instr} {r : Reg} (hr : mayWrite i r = false) (c : ResultCode) (s : State) :
    readReg (complete c s) r = readReg s r := by
  cases r with
  | status => cases i <;> cases hr
  | _ => rfl

/-- Only HMAC and GENERATE have a commit that uses the library. -/
theorem Commit.library_eq {i : Instr} {s t : State} (h : Commit i s t) (hhmac : i ≠ .hmac) (hgenerate : i ≠ .generate) :
    t.outside.library = s.outside.library ∧ t.outside.draws = s.outside.draws := by
  cases h with
  | library hi => exact absurd hi (not_or.2 ⟨hhmac, hgenerate⟩)
  | _ => exact ⟨rfl, rfl⟩

theorem Commits.library_eq {i : Instr} {s t : State} (h : Commits i s t) (hhmac : i ≠ .hmac)
    (hgenerate : i ≠ .generate) :
    t.outside.library = s.outside.library ∧ t.outside.draws = s.outside.draws := by
  induction h with
  | refl => exact ⟨rfl, rfl⟩
  | tail _ hcommit ih =>
    obtain ⟨hlibrary, hdraws⟩ := hcommit.library_eq hhmac hgenerate
    exact ⟨hlibrary.trans ih.1, hdraws.trans ih.2⟩

end Sys2Proof.Machine
end

section
/-! SUPPORT. States in which each result of a command's row occurs (30_encoding.md R85). -/

namespace Sys2Proof.Machine

/-- A state from which every command completes with OK on a block with backend `b`: the secret "AB", WINDOW 1, a key of
one byte and a library that answers. -/
def readyState (b : Backend) : State :=
  { State.reset with
    params := { secretCap := 8, backend := b }
    regs := { State.reset.regs with window := 1, secretLen := 2, secret := [0x41, 0x42], keyLen := 1, key := [0x01] }
    outside := { State.reset.outside with library := [true] } }

/-- `readyState` with nothing to decode and no key. -/
def keylessState (b : Backend) : State :=
  { readyState b with regs := { (readyState b).regs with secretLen := 0, keyLen := 0 } }

/-- `readyState` with WINDOW 0. -/
def windowlessState (b : Backend) : State :=
  { readyState b with regs := { (readyState b).regs with window := 0 } }

/-- `readyState` of an EXTERNAL block whose library fails. -/
def refusedState : State :=
  { readyState .external with outside := { State.reset.outside with library := [false] } }

/-- Every result of a command's row occurs (30_encoding.md R85). -/
theorem exists_stagesOf_result {b : Backend} {i : Instr} {r : ResultCode} (h : mayResult b i r = true) :
    ∃ s : State, s.params.backend = b ∧ (stagesOf i s).result = r := by
  cases r with
  | ok => exact ⟨readyState b, rfl, by cases i <;> cases b <;> rfl⟩
  | emptyKey =>
    cases i with
    | hmac | generate => exact ⟨keylessState b, rfl, rfl⟩
    | _ => cases h
  | hashFailure =>
    cases b with
    | internal => cases i <;> cases h
    | external =>
      cases i with
      | hmac | generate => exact ⟨refusedState, rfl, rfl⟩
      | _ => cases h
  | badWindow =>
    cases i with
    | pack | trem | generate => exact ⟨windowlessState b, rfl, rfl⟩
    | _ => cases h
  | badOpcode => cases i <;> cases h

end Sys2Proof.Machine
end

section
/-! The statements on what operations leave alone and what they report. -/

namespace Sys2Proof.Machine

/-- Settles O29: a command's commits stay within its row and keep the host's side, and only HMAC and GENERATE have a
commit that uses the library. -/
theorem commandsWriteOnlyTheirRegisters : Obligations.CommandsWriteOnlyTheirRegisters := by
  unfold Obligations.CommandsWriteOnlyTheirRegisters
  intro i s t hexec
  obtain ⟨c, u, hcommits, rfl⟩ := exec_commits hexec
  have hkeeps := hcommits.keepsHostSide
  exact ⟨fun r hr => (readReg_complete hr c u).trans (hcommits.readReg_eq hr), hkeeps.params, hkeeps.inputs,
    hkeeps.reads, hkeeps.latencies, hcommits.library_eq⟩

/-- Settles O28: a command's stages raise only results of its row, and each of these occurs in a state above. -/
theorem resultCodesPerOperation : Obligations.ResultCodesPerOperation := by
  unfold Obligations.ResultCodesPerOperation
  refine ⟨?only, ?each, ?reserved⟩
  case only =>
    intro i s t hexec
    rw [exec_next hexec, complete_status, Status.completed_result]
    exact (stageOf_stagesOf i s).2
  case each =>
    intro b i r hr
    obtain ⟨s, hb, hresult⟩ := exists_stagesOf_result hr
    refine ⟨s, _, hb, exec_eq_complete i s, ?_⟩
    rw [complete_status, Status.completed_result, hresult]
  case reserved =>
    intro s t hexec
    obtain rfl := Host.Outcome.next.inj hexec
    rw [complete_status, Status.completed_result]

/-- Settles O14: every operation is answered by a completion, whose stages keep the host's side; only CLEAR has a commit
to STATUS. -/
theorem everyOperationCompletes : Obligations.EveryOperationCompletes := by
  unfold Obligations.EveryOperationCompletes
  intro s op hseq hreset
  obtain ⟨r, u, hrun, hkeeps⟩ := runOp_eq_complete op s
  refine ⟨complete r u, (step_of_due hseq hreset).trans hrun, rfl, rfl, rfl, fun hop => ?_, hkeeps.params,
    hkeeps.inputs, hkeeps.reads, hkeeps.latencies⟩
  obtain ⟨c, hstatus⟩ := runOp_status hop hrun
  rw [hstatus, Status.completed_errBusy]

end Sys2Proof.Machine
end

section
/-! SUPPORT. What the host's turn leaves of a block that it does not write to, or that is busy. -/

namespace Sys2Proof.Machine

/-- What an action of the host leaves of a running operation: its operands, its place in SEQ, and STATUS but for
ERR_BUSY (70_reset_and_hazards.md R290, R291). -/
structure LeavesRunning (s t : State) : Prop where
  params : t.params = s.params
  seq : t.seq = s.seq
  regs : t.regs = s.regs
  status : t.status = { s.status with errBusy := t.status.errBusy }
  outside : HostActed s.outside t.outside

/-- While BUSY = 1 a write is dropped as any other action, so no action of the host reaches the operation. -/
theorem hostTurn_leavesRunning {s t : State} (h : hostTurn s = .next t) (hr : resetPending s = false)
    (hb : s.status.busy = true) : LeavesRunning s t := by
  obtain ⟨o, rfl, hacted⟩ | ⟨a, rest, hi, -, rfl⟩ := hostTurn_cases h hr
  · exact ⟨rfl, rfl, rfl, rfl, hacted⟩
  · rw [hostWrite_of_busy (s := withInputs s rest) hb]
    exact ⟨rfl, rfl, rfl, rfl, withInputs_acted hi⟩

/-- A write to the window never changes the instance parameters (10_state.md R20). -/
theorem hostWrite_params (s : State) (off : BitVec 12) (v : Word) : (hostWrite s off v).params = s.params := by
  cases hb : s.status.busy with
  | true => rw [hostWrite_of_busy hb]
  | false =>
    rw [hostWrite_of_idle hb]
    cases hr : regAt s.params off.toNat with
    | none => simp only [writeWindow, hr]
    | some r => rw [writeWindow_of_regAt hr, writeReg_params]

/-- The host's turn keeps the parameters, and without a write it keeps the registers. -/
theorem hostTurn_params_regs {s t : State} (h : hostTurn s = .next t) (hr : resetPending s = false) :
    t.params = s.params ∧
      ((∀ a rest, s.outside.inputs = .access a :: rest → a.dir ≠ .write) → t.regs = s.regs) := by
  obtain ⟨o, rfl, -⟩ | ⟨a, rest, hi, hwrite, rfl⟩ := hostTurn_cases h hr
  · exact ⟨rfl, fun _ => rfl⟩
  · exact ⟨hostWrite_params _ _ _, fun hno => absurd hwrite (hno a rest hi)⟩

/-- Only an access that has no meaning stops the host's turn (20_memory.md R62). -/
theorem hostTurn_answers {s : State} (h : ∀ a rest, s.outside.inputs = .access a :: rest → a.wf = true) :
    ∃ t, hostTurn s = .next t := by
  cases hi : s.outside.inputs with
  | nil => exact ⟨s, by simp only [hostTurn, hi]⟩
  | cons e rest =>
    cases e with
    | access a =>
      have hturn : hostTurn s = hostAccess a (withInputs s rest) := by simp only [hostTurn, hi]
      rw [hturn, hostAccess, if_pos (h a rest hi)]
      cases a.dir <;> exact ⟨_, rfl⟩
    | _ => exact ⟨_, by simp only [hostTurn, hi]; rfl⟩

/-- The host's turn with a meaningless access is the fault that names it (20_memory.md R62). -/
theorem hostTurn_faults {s : State} {a : Access} {rest : List HostEvent} (hi : s.outside.inputs = .access a :: rest)
    (ha : a.wf = false) : hostTurn s = .fault (.badAccess a) := by
  simp [hostTurn, hi, hostAccess, ha]

theorem Access.wf_iff (a : Access) : a.wf = true ↔ a.width = .word ∧ a.offset.toNat % 4 = 0 := by
  simp [Access.wf]

/-- No reset is pending when the host's next action is an access. -/
theorem resetPending_of_access {s : State} {a : Access} {rest : List HostEvent}
    (hi : s.outside.inputs = .access a :: rest) : resetPending s = false := by
  simp only [resetPending, hi]

/-- While no operation is due, an access is taken by the host's turn of the step. -/
theorem step_of_access {s : State} {a : Access} {rest : List HostEvent} (hi : s.outside.inputs = .access a :: rest)
    (hdue : ∀ op, s.seq ≠ .run op 0) : ∃ q, step s = hostTurn { s with seq := q } := by
  cases hseq : s.seq with
  | idle => exact ⟨.idle, by rw [step_of_idle hseq, ← hseq]⟩
  | run op n =>
    cases n with
    | zero => exact absurd hseq (hdue op)
    | succ n => exact ⟨_, step_of_running hseq (resetPending_of_access hi)⟩

end Sys2Proof.Machine
end

section
/-! The statements on the host's turn: what it leaves, and which accesses it takes. -/

namespace Sys2Proof.Machine

/-- Settles O20: while nothing is due the access meets the host's turn, busy or not, and that faults exactly on an
access that has no meaning. -/
theorem onlyAlignedWordAccessesAreMeaningful : Obligations.OnlyAlignedWordAccessesAreMeaningful := by
  unfold Obligations.OnlyAlignedWordAccessesAreMeaningful
  intro s a rest hi hdue
  obtain ⟨q, hstep⟩ := step_of_access hi hdue
  rw [hstep]
  constructor
  · intro hbad
    have ha : a.wf = false := by
      rw [← Bool.not_eq_true, Access.wf_iff]
      tauto
    exact hostTurn_faults (s := { s with seq := q }) hi ha
  · intro hgood
    refine hostTurn_answers fun a' rest' hi' => ?_
    obtain rfl : a = a' := HostEvent.access.inj (List.cons.inj (hi.symm.trans hi')).1
    exact (Access.wf_iff a).2 hgood

/-- Settles O30: the commits of an operation keep the host's operands, and so does every turn of the host that is no
write; a reset keeps the parameters. -/
theorem onlyTheHostWritesItsOperands : Obligations.OnlyTheHostWritesItsOperands := by
  unfold Obligations.OnlyTheHostWritesItsOperands
  intro s t hstep
  have operands (h : t.regs = s.regs) : t.regs.secret = s.regs.secret ∧ t.regs.secretLen = s.regs.secretLen ∧
      t.regs.window = s.regs.window ∧ t.regs.timeLo = s.regs.timeLo ∧ t.regs.timeHi = s.regs.timeHi :=
    h ▸ ⟨rfl, rfl, rfl, rfl, rfl⟩
  obtain ⟨rest, hi, rfl⟩ | ⟨-, op, -, hrun⟩ | ⟨hreset, op, n, -, hturn⟩ | ⟨hreset, -, hturn⟩ := step_next hstep
  · exact ⟨rfl, fun hreset => absurd ((resetPending_iff s).2 ⟨rest, hi⟩) (by simp [hreset])⟩
  · obtain ⟨r, u, hanswer, hkeeps⟩ := runOp_eq_complete op s
    obtain rfl := Host.Outcome.next.inj (hrun.symm.trans hanswer)
    exact ⟨hkeeps.params, fun _ _ => ⟨hkeeps.secret, hkeeps.secretLen, hkeeps.window, hkeeps.timeLo, hkeeps.timeHi⟩⟩
  · obtain ⟨hparams, hregs⟩ := hostTurn_params_regs (s := { s with seq := .run op n }) hturn hreset
    exact ⟨hparams, fun _ hno => operands (hregs hno)⟩
  · obtain ⟨hparams, hregs⟩ := hostTurn_params_regs hturn hreset
    exact ⟨hparams, fun _ hno => operands (hregs hno)⟩

/-- Settles O15: the step of a running operation is the host's turn, which leaves the registers and, of STATUS, all but
ERR_BUSY. -/
theorem nothingChangesBeforeCompletion : Obligations.NothingChangesBeforeCompletion := by
  unfold Obligations.NothingChangesBeforeCompletion
  intro s t op n hseq hbusy hreset hstep
  rw [step_of_running hseq hreset] at hstep
  obtain ⟨-, htseq, hregs, hstatus, -⟩ :=
    hostTurn_leavesRunning (s := { s with seq := .run op n }) hstep hreset hbusy
  refine ⟨htseq, fun r hr => ?_, by rw [hstatus]; exact hbusy, by rw [hstatus], by rw [hstatus]⟩
  cases r with
  | status => exact absurd rfl hr
  | _ => simp only [readReg, hregs]

end Sys2Proof.Machine
end

section
/-! SUPPORT. An operation reads its operands and nothing else: two states that agree in them end in outcomes that agree
(70_reset_and_hazards.md R290, R294). -/

namespace Sys2Proof.Machine

/-- Two states that agree in all that an operation reads, but for the count of draws. -/
structure SameOperands (s s' : State) : Prop where
  params : s'.params = s.params
  regs : s'.regs = s.regs
  latencies : s'.outside.latencies = s.outside.latencies
  library : s'.outside.library = s.outside.library

/-- One commit to the registers of both states. -/
theorem SameOperands.commit {s s' : State} (h : SameOperands s s') (f : Regs → Regs) :
    SameOperands { s with regs := f s.regs } { s' with regs := f s'.regs } :=
  ⟨h.params, congrArg f h.regs, h.latencies, h.library⟩

theorem SameOperands.digestCommitted {s s' : State} (h : SameOperands s s') :
    SameOperands (digestCommitted s) (digestCommitted s') :=
  h.commit fun r => commitDigest (hmacSha1 (keyBytes r) (msgBytes r)) r

/-- The digest needs no free value: the block hashes itself, or the library's answer is given (log entry 8). -/
def AnswerGiven (s : State) : Prop := s.params.backend = .internal ∨ s.outside.library ≠ []

theorem drawLibrary_cons {o : Outside} {b : Bool} {rest : List Bool} (h : o.library = b :: rest) :
    drawLibrary o = (b, { o with library := rest }) := by simp only [drawLibrary, h]

/-- With the answer given, the digest stage ends alike in states with the same operands. -/
theorem digestStage_sameOperands {s s' : State} (h : SameOperands s s') (hg : AnswerGiven s) :
    (∃ u u', digestStage s = .goesOn u ∧ digestStage s' = .goesOn u' ∧ SameOperands u u') ∨
    ∃ r u u', digestStage s = .raised r u ∧ digestStage s' = .raised r u' ∧ SameOperands u u' := by
  cases hb : s.params.backend with
  | internal =>
    have hb' : s'.params.backend = .internal := h.params ▸ hb
    exact .inl ⟨_, _, digestStage_internal hb, digestStage_internal hb', h.digestCommitted⟩
  | external =>
    have hb' : s'.params.backend = .external := h.params ▸ hb
    obtain ⟨b, rest, hl⟩ := List.exists_cons_of_ne_nil (hg.resolve_left (by simp [hb]))
    have hdraw := drawLibrary_cons hl
    have hdraw' := drawLibrary_cons (h.library.trans hl)
    have hdrawn : SameOperands { s with outside := (drawLibrary s.outside).2 }
        { s' with outside := (drawLibrary s'.outside).2 } := by
      rw [hdraw, hdraw']
      exact ⟨h.params, h.regs, h.latencies, rfl⟩
    cases b with
    | true =>
      exact .inl ⟨_, _, digestStage_answered hb (by rw [hdraw]), digestStage_answered hb' (by rw [hdraw']),
        hdrawn.digestCommitted⟩
    | false =>
      exact .inr ⟨_, _, _, digestStage_failed hb (by rw [hdraw]), digestStage_failed hb' (by rw [hdraw']), hdrawn⟩

/-- Two runs of an operation that end alike: with one result, from states with the same operands. -/
def EndAlike (op : Op) (s s' : State) : Prop :=
  ∃ r u u', runOp op s = .next (complete r u) ∧ runOp op s' = .next (complete r u') ∧ SameOperands u u'

theorem endAlike_pack {s s' : State} (h : SameOperands s s') : EndAlike (.cmd .pack) s s' := by
  by_cases hw : s.regs.window = 0
  · exact ⟨_, _, _, exec_pack_of_eq hw, exec_pack_of_eq (h.regs ▸ hw), h⟩
  · exact ⟨_, _, _, exec_pack_of_ne hw, exec_pack_of_ne (h.regs ▸ hw), h.commit fun r => commitPack r.window.toNat r⟩

theorem endAlike_trem {s s' : State} (h : SameOperands s s') : EndAlike (.cmd .trem) s s' := by
  by_cases hw : s.regs.window = 0
  · exact ⟨_, _, _, exec_trem_of_eq hw, exec_trem_of_eq (h.regs ▸ hw), h⟩
  · exact ⟨_, _, _, exec_trem_of_ne hw, exec_trem_of_ne (h.regs ▸ hw), h.commit fun r => commitTrem r.window.toNat r⟩

theorem endAlike_hmac {s s' : State} (h : SameOperands s s') (hg : AnswerGiven s) : EndAlike (.cmd .hmac) s s' := by
  by_cases hkey : s.regs.keyLen = 0
  · exact ⟨_, _, _, exec_hmac_of_eq hkey, exec_hmac_of_eq (h.regs ▸ hkey), h⟩
  · have hkey' : s'.regs.keyLen ≠ 0 := h.regs ▸ hkey
    obtain ⟨u, u', hu, hu', hsame⟩ | ⟨r, u, u', hu, hu', hsame⟩ := digestStage_sameOperands h hg
    · exact ⟨.ok, u, u', by rw [runOp, exec_hmac_of_ne hkey, hu, Staged.finish_goesOn],
        by rw [runOp, exec_hmac_of_ne hkey', hu', Staged.finish_goesOn], hsame⟩
    · exact ⟨r, u, u', by rw [runOp, exec_hmac_of_ne hkey, hu, Staged.finish_raised],
        by rw [runOp, exec_hmac_of_ne hkey', hu', Staged.finish_raised], hsame⟩

theorem endAlike_generate {s s' : State} (h : SameOperands s s') (hg : AnswerGiven s) :
    EndAlike (.cmd .generate) s s' := by
  have hd := h.commit fun r => commitDecode (b32decode (secretString r)) r
  have hp := hd.commit fun r => commitPack r.window.toNat r
  by_cases hkey : (commitDecode (b32decode (secretString s.regs)) s.regs).keyLen = 0
  · exact ⟨_, _, _, exec_generate_emptyKey (decodeStage_eq s) hkey,
      exec_generate_emptyKey (decodeStage_eq s') (h.regs ▸ hkey), hd⟩
  have hkey' : (commitDecode (b32decode (secretString s'.regs)) s'.regs).keyLen ≠ 0 := h.regs ▸ hkey
  by_cases hw : s.regs.window = 0
  · exact ⟨_, _, _, exec_generate_badWindow (decodeStage_eq s) hkey hw,
      exec_generate_badWindow (decodeStage_eq s') hkey' (h.regs ▸ hw), hd⟩
  have hw' : s'.regs.window ≠ 0 := h.regs ▸ hw
  obtain ⟨u, u', hu, hu', hsame⟩ | ⟨r, u, u', hu, hu', hsame⟩ := digestStage_sameOperands hp hg
  · exact ⟨_, _, _, exec_generate_digested (decodeStage_eq s) hkey hw hu,
      exec_generate_digested (decodeStage_eq s') hkey' hw' hu', hsame.commit commitTrunc⟩
  · exact ⟨_, _, _, exec_generate_digestRaised (decodeStage_eq s) hkey hw hu,
      exec_generate_digestRaised (decodeStage_eq s') hkey' hw' hu', hsame⟩

theorem endAlike_of_sameOperands {s s' : State} (h : SameOperands s s') (hg : AnswerGiven s) (op : Op) :
    EndAlike op s s' := by
  cases op with
  | reserved => exact ⟨_, _, _, runOp_reserved s, runOp_reserved s', h⟩
  | cmd i =>
    cases i with
    | decode =>
      exact ⟨_, _, _, exec_decode s, exec_decode s', h.commit fun r => commitDecode (b32decode (secretString r)) r⟩
    | validate =>
      exact ⟨_, _, _, exec_validate s, exec_validate s',
        h.commit fun r => { r with valid := (runValidator (secretString r)).accepts }⟩
    | pack => exact endAlike_pack h
    | hmac => exact endAlike_hmac h hg
    | trunc => exact ⟨_, _, _, exec_trunc s, exec_trunc s', h.commit commitTrunc⟩
    | trem => exact endAlike_trem h
    | generate => exact endAlike_generate h hg
    | clear => exact ⟨_, _, _, exec_clear s, exec_clear s', h.params, h.regs, h.latencies, h.library⟩

/-- `t` is the outcome `u` but for ERR_BUSY, the host's side of what is outside, and the draws. -/
structure SameOutcome (t u : State) : Prop where
  params : t.params = u.params
  seq : t.seq = u.seq
  regs : t.regs = u.regs
  busy : t.status.busy = u.status.busy
  done : t.status.done = u.status.done
  result : t.status.result = u.status.result
  latencies : t.outside.latencies = u.outside.latencies
  library : t.outside.library = u.outside.library

theorem SameOutcome.refl (t : State) : SameOutcome t t := ⟨rfl, rfl, rfl, rfl, rfl, rfl, rfl, rfl⟩

/-- Completions with one result of states with the same operands are one outcome. -/
theorem SameOutcome.of_complete {t u u' : State} {r : ResultCode} (ht : SameOutcome t (complete r u'))
    (h : SameOperands u u') : SameOutcome t (complete r u) where
  params := ht.params.trans h.params
  seq := ht.seq
  regs := ht.regs.trans h.regs
  busy := ht.busy
  done := ht.done
  result := ht.result
  latencies := ht.latencies.trans h.latencies
  library := ht.library.trans h.library

theorem SameOutcome.eq {t u : State} (h : SameOutcome t u) :
    t = { u with
      status := { u.status with errBusy := t.status.errBusy }
      outside := { u.outside with
        inputs := t.outside.inputs, reads := t.outside.reads, draws := t.outside.draws } } := by
  obtain ⟨hparams, hseq, hregs, hbusy, hdone, hresult, hlatencies, hlibrary⟩ := h
  simp only [← hparams, ← hseq, ← hregs, ← hbusy, ← hdone, ← hresult, ← hlatencies, ← hlibrary]

end Sys2Proof.Machine
end

section
/-! SUPPORT. The steps of a running operation while the host acts undisturbing (70_reset_and_hazards.md R293). -/

namespace Sys2Proof.Machine

theorem HostEvent.quiet_iff (e : HostEvent) : e.quiet = true ↔ e.wf = true ∧ e ≠ .reset := by
  simp [HostEvent.quiet]

/-- No reset is pending while the host's actions are quiet. -/
theorem resetPending_of_quiet {s : State} (h : ∀ e ∈ s.outside.inputs, e.quiet = true) : resetPending s = false := by
  refine eq_false_of_ne_true fun hreset => ?_
  obtain ⟨rest, hi⟩ := (resetPending_iff s).1 hreset
  exact ((HostEvent.quiet_iff _).1 (h .reset (hi ▸ List.mem_cons_self))).2 rfl

/-- A step of a running operation that faces quiet actions: one step of its latency passes, and all that the operation
will read or leave stays. -/
theorem step_of_running_quiet {s : State} {op : Op} {n : Nat} (hseq : s.seq = .run op (n + 1))
    (hbusy : s.status.busy = true) (hquiet : ∀ e ∈ s.outside.inputs, e.quiet = true) :
    ∃ t, step s = .next t ∧ t.seq = .run op n ∧ t.status.busy = true ∧ (∀ e ∈ t.outside.inputs, e.quiet = true) ∧
      SameOperands s t := by
  have hreset := resetPending_of_quiet hquiet
  obtain ⟨t, hturn⟩ := hostTurn_answers (s := { s with seq := .run op n }) fun a rest hi =>
    ((HostEvent.quiet_iff (.access a)).1 (hquiet _ (hi ▸ List.mem_cons_self))).1
  obtain ⟨hparams, htseq, hregs, hstatus, hlatencies, hlibrary, hinputs⟩ := hostTurn_leavesRunning hturn hreset hbusy
  exact ⟨t, (step_of_running hseq hreset).trans hturn, htseq, by rw [hstatus]; exact hbusy,
    fun e he => hquiet e (hinputs he), hparams, hregs, hlatencies, hlibrary⟩

/-- A pending reset is what the step does (60_exceptions.md R254). -/
theorem step_of_reset {s : State} {rest : List HostEvent} (hi : s.outside.inputs = .reset :: rest) :
    step s = .next (resetBlock (withInputs s rest)) := by
  simp only [step, machineStep, (resetPending_iff s).2 ⟨rest, hi⟩, if_true, hostTurn, hi]

/-- A run of one more step is a run from where the step leads. -/
theorem run_succ_of_step {n : Nat} {s t : State} (h : step s = .next t) :
    Host.Core.run Sys2Proof.core (n + 1) s = Host.Core.run Sys2Proof.core n t := by
  have hcore : Sys2Proof.core.step s = .next t := h
  simp only [Host.Core.run, hcore]

/-- An operation ends after its latency as it would end at once. -/
theorem run_sameOutcome (n : Nat) {s : State} {op : Op} (hg : AnswerGiven s) (hbusy : s.status.busy = true)
    (hseq : s.seq = .run op n) (hquiet : ∀ e ∈ s.outside.inputs, e.quiet = true) :
    ∃ t r u, Host.Core.run Sys2Proof.core (n + 1) s = .next t ∧ runOp op s = .next (complete r u) ∧
      SameOutcome t (complete r u) := by
  induction n generalizing s with
  | zero =>
    obtain ⟨r, u, hrun, -⟩ := runOp_eq_complete op s
    have hstep : step s = .next (complete r u) := (step_of_due hseq (resetPending_of_quiet hquiet)).trans hrun
    exact ⟨_, r, u, run_succ_of_step hstep, hrun, .refl _⟩
  | succ n ih =>
    obtain ⟨s₁, hstep, hseq₁, hbusy₁, hquiet₁, hsame⟩ := step_of_running_quiet hseq hbusy hquiet
    have hg₁ : AnswerGiven s₁ := by rwa [AnswerGiven, hsame.params, hsame.library]
    obtain ⟨t, r₁, u₁, hrun, hop₁, houtcome⟩ := ih hg₁ hbusy₁ hseq₁ hquiet₁
    obtain ⟨r, u, u', hop, hop', hend⟩ := endAlike_of_sameOperands hsame hg op
    have hcomplete : complete r₁ u₁ = complete r u' := Host.Outcome.next.inj (hop₁.symm.trans hop')
    exact ⟨t, r, u, (run_succ_of_step hstep).trans hrun, hop, (hcomplete ▸ houtcome).of_complete hend⟩

/-! ### Reads -/

/-- An aligned 32-bit read has a meaning (20_memory.md R62), so the host's turn performs it. -/
theorem hostTurn_of_rdEvent {s : State} {off : BitVec 12} {rest : List HostEvent}
    (hi : s.outside.inputs = rdEvent off :: rest) (ha : off.toNat % 4 = 0) :
    hostTurn s = .next (hostRead (withInputs s rest) off) := by
  simp [hostTurn, hi, rdEvent, hostAccess, Access.wf, ha]

/-- A read while BUSY = 1 (70_reset_and_hazards.md R290). -/
theorem readValue_of_busy {s : State} {off : Nat} {r : Reg} (hb : s.status.busy = true)
    (hr : regAt s.params off = some r) :
    readValue s off = if r = .id ∨ r = .status then (readReg s r, s.outside) else drawRead s.outside := by
  simp only [readValue, hb, hr]
  cases r <;> rfl

/-- What a read leaves, with the value it returns and the count of draws it leaves. -/
theorem hostRead_of_readValue {s : State} {off : BitVec 12} {v : Word} {d : Nat}
    (h : readValue s off.toNat = (v, { s.outside with draws := d })) :
    hostRead s off = { s with
      outside := { s.outside with reads := { offset := off, value := v } :: s.outside.reads, draws := d } } := by
  simp only [hostRead, h]

end Sys2Proof.Machine
end

section
/-! The statements on a running operation: how it ends, and what the host reads meanwhile; on acceptance and reset. -/

namespace Sys2Proof.Machine

/-- Settles O18: by induction on the latency. A quiet step keeps the operands, and an operation with the same operands
ends alike. -/
theorem operationFinishesAfterItsLatency : Obligations.OperationFinishesAfterItsLatency := by
  unfold Obligations.OperationFinishesAfterItsLatency
  intro n s op hg hbusy hseq hquiet
  obtain ⟨t, r, u, hrun, hop, houtcome⟩ := run_sameOutcome n hg hbusy hseq hquiet
  exact ⟨t, complete r u, hrun, hop, houtcome.seq, houtcome.busy, houtcome.done, houtcome.eq⟩

/-- Settles O17: the step of a running operation is the host's turn, whose read of ID and STATUS is exact and of any
other register a draw. -/
theorem readWhileBusyIsFree : Obligations.ReadWhileBusyIsFree := by
  unfold Obligations.ReadWhileBusyIsFree
  intro s op n off rest r hseq hbusy hi halign hr
  have hstep : step s = .next (hostRead (withInputs { s with seq := .run op n } rest) off) := by
    rw [step_of_running hseq (resetPending_of_access hi)]
    exact hostTurn_of_rdEvent hi halign
  have hvalue := readValue_of_busy (s := withInputs { s with seq := .run op n } rest) hbusy hr
  by_cases hexact : r = .id ∨ r = .status
  · rw [if_pos hexact] at hvalue
    refine ⟨_, _, hstep.trans (congrArg _ (hostRead_of_readValue hvalue)), rfl, ?_, ?_, ?_⟩
    · rintro rfl
      exact ⟨rfl, rfl⟩
    · rintro rfl
      exact ⟨rfl, rfl⟩
    · exact fun hid hstatus => absurd hexact (not_or.2 ⟨hid, hstatus⟩)
  · rw [if_neg hexact] at hvalue
    obtain ⟨hid, hstatus⟩ := not_or.1 hexact
    exact ⟨_, _, hstep.trans (congrArg _ (hostRead_of_readValue hvalue)), rfl, fun h => absurd h hid,
      fun h => absurd h hstatus, fun _ _ => ⟨rfl, rfl⟩⟩

/-- Settles O11: acceptance draws its latency, which is the next one given, or else a free value. -/
theorem acceptedLatencyIsTheNextGiven : Obligations.AcceptedLatencyIsTheNextGiven := by
  unfold Obligations.AcceptedLatencyIsTheNextGiven
  intro s w
  rw [accept_seq, accept_outside]
  constructor
  · intro n rest hl
    simp only [drawLatency, hl, and_self]
  · intro hl
    simp only [drawLatency, hl, and_self]

/-- Settles O9: the reset registers are those of `State.reset`, but for the buffers of the instance. -/
theorem resetAbandonsTheRunningOperation : Obligations.ResetAbandonsTheRunningOperation := by
  unfold Obligations.ResetAbandonsTheRunningOperation
  intro s rest hi
  have hregs := RegsInv.afterReset s.params s.outside.draws
  exact ⟨_, step_of_reset hi, rfl, hregs.keySize, hregs.secretSize⟩

end Sys2Proof.Machine
end

section
/-! SUPPORT. The address decoder, in both directions (10_state.md R23, R48): a register is found at its own offset, and
what is found at an offset sits there. -/

namespace Sys2Proof.Machine

/-- Element `i` of a buffer is found at base + 4i, and nowhere else (10_state.md R48). -/
theorem bufferIndex_eq_some_iff {base n off : Nat} {i : Fin n} :
    bufferIndex base n off = some i ↔ off = base + 4 * i.val := by
  unfold bufferIndex
  split
  next h =>
    simp only [Option.some_inj, Fin.ext_iff]
    omega
  next h =>
    have := i.isLt
    simp only [reduceCtorEq, false_iff]
    omega

/-- The scalar registers sit at 0x000 to 0x04C. -/
theorem offsetOf_of_scalarAt {off : Nat} {r : Reg} (h : scalarAt off = some r) : r.offsetOf = off ∧ off ≤ 0x04C := by
  unfold scalarAt at h
  split at h <;> cases h <;> exact ⟨rfl, by decide⟩

/-- What is found at an offset sits there. -/
theorem offsetOf_of_regAt {p : Params} {off : Nat} {r : Reg} (h : regAt p off = some r) : r.offsetOf = off := by
  simp only [regAt, Option.orElse_eq_orElse, Option.orElse_eq_or, Option.or_eq_some_iff, Option.map_eq_some_iff,
    bufferIndex_eq_some_iff] at h
  obtain h | ⟨-, ⟨i, rfl, rfl⟩ | ⟨-, ⟨i, rfl, rfl⟩ | ⟨-, ⟨i, rfl, rfl⟩ | ⟨-, ⟨i, rfl, rfl⟩ | ⟨-, i, rfl, rfl⟩⟩⟩⟩⟩ := h
  · exact (offsetOf_of_scalarAt h).1
  all_goals rfl

theorem Params.keyCap_le {p : Params} (h : p.wf = true) : p.keyCap ≤ 160 := by
  have := Params.secretCap_le h
  rw [Params.keyCap]
  omega

/-- The offset of a register that a legal instance has lies in the window (10_state.md R23). -/
theorem offsetOf_lt {p : Params} (hp : p.wf = true) {r : Reg} (h : r.wf p = true) : r.offsetOf < 0x1000 := by
  have hkeyCap := Params.keyCap_le hp
  have hsecretCap := Params.secretCap_le hp
  cases r with
  | code i | msg i | digest i => simp only [Reg.offsetOf]; omega
  | key i | secret i =>
    have hi := of_decide_eq_true h
    simp only [Reg.offsetOf]
    omega
  | _ => simp only [Reg.offsetOf]; omega

theorem scalarAt_of_lt {off : Nat} (h : 0x04C < off) : scalarAt off = none := by
  refine Option.eq_none_iff_forall_ne_some.2 fun r hr => ?_
  have := (offsetOf_of_scalarAt hr).2
  omega

theorem bufferIndex_eq_none {base n off : Nat} (h : off < base ∨ base + 4 * n ≤ off) :
    bufferIndex base n off = none := by
  refine dif_neg ?_
  omega

/-- A register that a legal instance has is found at its own offset: no earlier range of the map reaches it. -/
theorem regAt_offsetOf {p : Params} (hp : p.wf = true) {r : Reg} (h : r.wf p = true) :
    regAt p r.offsetOf = some r := by
  have hkeyCap := Params.keyCap_le hp
  cases r with
  | code i =>
    have hself : bufferIndex 0x050 6 (0x050 + 4 * i) = some i := bufferIndex_eq_some_iff.2 rfl
    simp (disch := omega) [Reg.offsetOf, regAt, scalarAt_of_lt, bufferIndex_eq_none, hself]
  | msg i =>
    have hself : bufferIndex 0x080 8 (0x080 + 4 * i) = some i := bufferIndex_eq_some_iff.2 rfl
    simp (disch := omega) [Reg.offsetOf, regAt, scalarAt_of_lt, bufferIndex_eq_none, hself]
  | digest i =>
    have hself : bufferIndex 0x0C0 20 (0x0C0 + 4 * i) = some i := bufferIndex_eq_some_iff.2 rfl
    simp (disch := omega) [Reg.offsetOf, regAt, scalarAt_of_lt, bufferIndex_eq_none, hself]
  | key i =>
    have hi : i < p.keyCap := of_decide_eq_true h
    have hself : bufferIndex 0x400 p.keyCap (0x400 + 4 * i) = some ⟨i, hi⟩ := bufferIndex_eq_some_iff.2 rfl
    simp (disch := omega) [Reg.offsetOf, regAt, scalarAt_of_lt, bufferIndex_eq_none, hself]
  | secret i =>
    have hi : i < p.secretCap := of_decide_eq_true h
    have hself : bufferIndex 0x800 p.secretCap (0x800 + 4 * i) = some ⟨i, hi⟩ := bufferIndex_eq_some_iff.2 rfl
    simp (disch := omega) [Reg.offsetOf, regAt, scalarAt_of_lt, bufferIndex_eq_none, hself]
  | _ => rfl

end Sys2Proof.Machine
end

section
/-! SUPPORT. The value of each register as a number, and what a write leaves of the others (10_state.md R25 to R37). -/

namespace Sys2Proof.Machine

/-! ### Values -/

theorem loWord_toNat (v : BitVec 64) : (loWord v).toNat = v.toNat % 2 ^ 32 := by
  rw [loWord, BitVec.extractLsb'_toNat, Nat.shiftRight_zero]

theorem hiWord_toNat (v : BitVec 64) : (hiWord v).toNat = v.toNat / 2 ^ 32 := by
  have hlt : v.toNat / 2 ^ 32 < 2 ^ 32 := Nat.div_lt_of_lt_mul v.isLt
  rw [hiWord, BitVec.extractLsb'_toNat, Nat.shiftRight_eq_div_pow, Nat.mod_eq_of_lt hlt]

/-- STATUS as a number: each field at its weight, and 0 between them (10_state.md R25). -/
theorem Status.word_toNat (t : Status) :
    t.word.toNat = t.busy.toNat + 2 * t.done.toNat + 16 * t.result.bits.toNat + 256 * t.errBusy.toNat := by
  have hzero (n : Nat) : (0 : BitVec n).toNat = 0 := BitVec.toNat_zero
  simp only [Status.word, toNat_append_eq_mul_add, BitVec.toNat_ofBool, hzero]
  ring

/-! ### Writes -/

theorem byteAt_set_ne {l : List Byte} {i j : Nat} (h : j ≠ i) (b : Byte) : byteAt (l.set i b) j = byteAt l j := by
  simp only [byteAt, List.getD_eq_getElem?_getD, List.getElem?_set_ne h.symm]

theorem vector_get_set_ne {n : Nat} {v : Vector Byte n} {i j : Fin n} (h : j ≠ i) (b : Byte) :
    (v.set i.val b).get j = v.get j := by
  rw [Vector.get_eq_getElem, Vector.get_eq_getElem, Vector.getElem_set_ne _ _ (Fin.val_ne_of_ne h.symm)]

/-- A register that a write does not name keeps its value. -/
theorem readReg_storeReg_of_ne {r r' : Reg} (h : r' ≠ r) (s : State) (v : Word) :
    readReg { s with regs := storeReg s.params s.regs r v } r' = readReg s r' := by
  cases r with
  | window =>
    cases r' with
    | window => exact absurd rfl h
    | _ => rfl
  | timeLo =>
    cases r' with
    | timeLo => exact absurd rfl h
    | _ => rfl
  | timeHi =>
    cases r' with
    | timeHi => exact absurd rfl h
    | _ => rfl
  | secretLen =>
    cases r' with
    | secretLen => exact absurd rfl h
    | _ => rfl
  | keyLen =>
    cases r' with
    | keyLen => exact absurd rfl h
    | _ => rfl
  | msg i =>
    cases r' with
    | msg j => simp only [readReg, storeReg, vector_get_set_ne fun hij => h (congrArg _ hij)]
    | _ => rfl
  | digest i =>
    cases r' with
    | digest j => simp only [readReg, storeReg, vector_get_set_ne fun hij => h (congrArg _ hij)]
    | _ => rfl
  | key i =>
    cases r' with
    | key j => simp only [readReg, storeReg, byteAt_set_ne fun hij => h (congrArg _ hij)]
    | _ => rfl
  | secret i =>
    cases r' with
    | secret j => simp only [readReg, storeReg, byteAt_set_ne fun hij => h (congrArg _ hij)]
    | _ => rfl
  | _ => rfl

/-- A write while BUSY = 0 to a register other than CMD stores its data there. -/
theorem hostWrite_of_regAt {s : State} {off : BitVec 12} {r : Reg} (hb : s.status.busy = false)
    (hr : regAt s.params off.toNat = some r) (hcmd : r ≠ .cmd) (v : Word) :
    hostWrite s off v = { s with regs := storeReg s.params s.regs r v } := by
  rw [hostWrite_of_idle hb, writeWindow_of_regAt hr, writeReg_of_ne_cmd hcmd]

/-- A write while BUSY = 0 to an unmapped offset is ignored (20_memory.md R64). -/
theorem hostWrite_of_unmapped {s : State} {off : BitVec 12} (hb : s.status.busy = false)
    (hr : regAt s.params off.toNat = none) (v : Word) : hostWrite s off v = s := by
  rw [hostWrite_of_idle hb]
  simp only [writeWindow, hr]

/-- What a register reads after a write to its offset. -/
theorem readWindow_hostWrite {s : State} {off : BitVec 12} {r : Reg} (hb : s.status.busy = false)
    (hr : regAt s.params off.toNat = some r) (hcmd : r ≠ .cmd) (v : Word) :
    readWindow (hostWrite s off v) off.toNat = readReg { s with regs := storeReg s.params s.regs r v } r := by
  rw [hostWrite_of_regAt hb hr hcmd]
  exact readWindow_of_regAt hr

end Sys2Proof.Machine
end

section
/-! The statements of 10_state.md and 20_memory.md on the register map and the window, and on what reset leaves
there. -/

namespace Sys2Proof.Machine

/-- Settles O5: the address decoder and the offsets are inverse to each other. -/
theorem registerMapRoundTrip : Obligations.RegisterMapRoundTrip := by
  unfold Obligations.RegisterMapRoundTrip
  exact fun p hp => ⟨fun r hr => ⟨offsetOf_lt hp hr, regAt_offsetOf hp hr⟩,
    fun off r h => ⟨offsetOf_of_regAt h, regAt_wf h⟩⟩

/-- Settles O6: a register found at such an offset would sit there, and no register of the instance does. -/
theorem unlistedOffsetsHoldNoRegister : Obligations.UnlistedOffsetsHoldNoRegister := by
  unfold Obligations.UnlistedOffsetsHoldNoRegister
  intro p off hp hoff
  refine Option.eq_none_iff_forall_ne_some.2 fun r hr => ?_
  have hwf := regAt_wf hr
  obtain rfl := offsetOf_of_regAt hr
  have hkeyCap := Params.keyCap_le hp
  cases r with
  | code i | msg i | digest i => simp only [Reg.offsetOf] at hoff; omega
  | key i | secret i =>
    have hi := of_decide_eq_true hwf
    simp only [Reg.offsetOf] at hoff
    omega
  | _ => simp only [Reg.offsetOf] at hoff; omega

/-- Settles O21: an unmapped offset is no register, so there is nothing to draw, to store or to submit. -/
theorem unmappedOffsetReadsZeroIgnoresWrites : Obligations.UnmappedOffsetReadsZeroIgnoresWrites := by
  unfold Obligations.UnmappedOffsetReadsZeroIgnoresWrites
  intro s off v hr
  refine ⟨?_, fun hb => hostWrite_of_unmapped hb hr v, fun hb => hostWrite_of_busy hb off v⟩
  cases hb : s.status.busy <;> simp only [readValue, readWindow, hb, hr, if_true, Bool.false_eq_true, if_false]

/-- Settles O24: each of the five is found at its offset, and a length is clamped to the capacity. -/
theorem scalarRegistersReadBack : Obligations.ScalarRegistersReadBack := by
  unfold Obligations.ScalarRegistersReadBack
  intro s v hb
  have hwindow := readWindow_hostWrite (off := 0x00C) (r := .window) hb rfl nofun v
  have htimeLo := readWindow_hostWrite (off := 0x010) (r := .timeLo) hb rfl nofun v
  have htimeHi := readWindow_hostWrite (off := 0x014) (r := .timeHi) hb rfl nofun v
  have hsecretLen := readWindow_hostWrite (off := 0x018) (r := .secretLen) hb rfl nofun v
  have hkeyLen := readWindow_hostWrite (off := 0x01C) (r := .keyLen) hb rfl nofun v
  exact ⟨hwindow, htimeLo, htimeHi, (congrArg BitVec.toNat hsecretLen).trans (clampLen_toNat _ _),
    (congrArg BitVec.toNat hkeyLen).trans (clampLen_toNat _ _)⟩

/-- Settles O25: a register found at another offset is another register, and a write names one register only. -/
theorem writeLeavesOtherRegistersAlone : Obligations.WriteLeavesOtherRegistersAlone := by
  unfold Obligations.WriteLeavesOtherRegistersAlone
  intro s off off' v hb hcmd hoff
  cases hr : regAt s.params off.toNat with
  | none => rw [hostWrite_of_unmapped hb hr]
  | some r =>
    rw [hostWrite_of_regAt hb hr fun h => hcmd (h ▸ hr)]
    cases hr' : regAt s.params off'.toNat with
    | none => simp only [readWindow, hr']
    | some r' =>
      have hne : r' ≠ r := by
        rintro rfl
        exact hoff (BitVec.eq_of_toNat_eq ((offsetOf_of_regAt hr').symm.trans (offsetOf_of_regAt hr)))
      rw [readWindow_of_regAt (s := { s with regs := storeReg s.params s.regs r v }) hr', readWindow_of_regAt hr',
        readReg_storeReg_of_ne hne]

/-- Settles O26: STATUS is the sum of its fields at their weights, and RESULT's code is its number. -/
theorem statusWordLayout : Obligations.StatusWordLayout := by
  unfold Obligations.StatusWordLayout
  intro t
  rw [Status.word_toNat]
  cases t.result <;> rfl

/-- Settles O19: the step of an idle block is the host's turn, whose read returns the stored value; at each scalar
offset that is the register's, whatever the instance. -/
theorem idleReadReturnsTheRegister : Obligations.IdleReadReturnsTheRegister := by
  unfold Obligations.IdleReadReturnsTheRegister
  refine ⟨fun s off rest r hseq hb hi halign hr => ⟨?_, readWindow_of_regAt hr⟩, fun s => ?_⟩
  · have hvalue := readValue_of_idle (s := withInputs s rest) hb off.toNat
    rw [readWindow_of_regAt (s := withInputs s rest) hr] at hvalue
    rw [step_of_idle hseq, hostTurn_of_rdEvent hi halign, hostRead_of_readValue hvalue]
    rfl
  · have zeroExtended {n : Nat} (h : n ≤ 32) (v : BitVec n) : (v.setWidth 32).toNat = v.toNat :=
      BitVec.toNat_setWidth_of_le h
    exact ⟨rfl, rfl, rfl, rfl, rfl, rfl, rfl, rfl, zeroExtended (by decide) _, readReg_decResid_toNat s,
      zeroExtended (by decide) _, (zeroExtended (by decide) _).trans (BitVec.toNat_ofBool _), loWord_toNat _,
      hiWord_toNat _, loWord_toNat _, hiWord_toNat _, zeroExtended (by decide) _, zeroExtended (by decide) _,
      zeroExtended (by decide) _, rfl⟩

/-- Settles O7: the registers of the standard instance are found at their offsets, where the reset values stand. -/
theorem resetLeavesTheListedValues : Obligations.ResetLeavesTheListedValues := by
  unfold Obligations.ResetLeavesTheListedValues
  refine ⟨rfl, rfl, rfl, rfl, fun r hr hid hwindow hkey hsecret => ?_, rfl, rfl⟩
  rw [readWindow_of_regAt (regAt_offsetOf rfl hr)]
  cases r with
  | id => exact absurd rfl hid
  | window => exact absurd rfl hwindow
  | key i => exact absurd rfl (hkey i)
  | secret i => exact absurd rfl (hsecret i)
  | code i | msg i | digest i => fin_cases i <;> rfl
  | _ => rfl

end Sys2Proof.Machine
end

section
/-! SUPPORT. The emitter over what normalization keeps, and beside the emitter with an unbounded accumulator
(40_base32_decoder.md R105, R106). -/

namespace Sys2Proof.Machine

/-! ### Normalization -/

theorem filterMap_b32val_stripSpace (t : List Byte) : (stripSpace t).filterMap b32val = t.filterMap b32val := by
  rw [stripSpace, List.filterMap_filter]
  refine List.filterMap_congr fun u _ => ?_
  cases hspace : isSpace u with
  | true => simp [b32val_of_isSpace hspace]
  | false => simp

theorem filterMap_b32val_stripTrailingPad (t : List Byte) :
    (stripTrailingPad t).filterMap b32val = t.filterMap b32val := by
  induction t using List.reverseRecOn with
  | nil => rfl
  | append_singleton t u ih =>
    rw [stripTrailingPad, List.rdropWhile_concat]
    split
    next hpad => simpa [b32val_of_isPad hpad, stripTrailingPad] using ih
    next => rfl

/-- Normalization removes no alphabet character (R105). -/
theorem filterMap_b32val_normalize (s : List Byte) : (normalize s).filterMap b32val = alphabetValues s := by
  rw [normalize, filterMap_b32val_stripTrailingPad, filterMap_b32val_stripSpace, alphabetValues]

theorem runEmitter_normalize (s : List Byte) : runEmitter (normalize s) = runEmitter (s.map upper) := by
  rw [runEmitter_eq_foldl, filterMap_b32val_normalize, runEmitter_eq_foldl, alphabetValues]

/-! ### The unbounded accumulator -/

theorem runEmitter_closedForm (t : List Byte) : EmitterClosedForm (t.filterMap b32val) (runEmitter t) := by
  rw [runEmitter_eq_foldl]
  exact foldl_emitValue_closedForm _

/-- CNT between characters (R106). -/
theorem runEmitter_cnt_le (t : List Byte) : (runEmitter t).cnt ≤ 7 := by
  rw [(runEmitter_closedForm t).cnt]
  omega

/-- A character emits at most one byte (R106). -/
theorem emitStep_out_length_le (e : Emitter) (u : Byte) : (emitStep e u).out.length ≤ e.out.length + 1 := by
  cases hu : b32val u with
  | none => simp [emitStep_skip hu]
  | some v =>
    rw [emitStep_value hu, emitValue]
    split <;> simp

/-- The unbounded emitter beside the emitter: same bytes and count, and ACC is its accumulator modulo 2^12. -/
structure WideAgrees (e : Emitter) (w : WideEmitter) : Prop where
  out : w.out = e.out
  cnt : w.cnt = e.cnt
  acc : e.acc.toNat = w.acc % 2 ^ 12

/-- A byte above the low `r` ≤ 4 bits is inside ACC (R106). -/
theorem emittedByte_eq_div {acc : BitVec 12} {n r : Nat} (hacc : acc.toNat = n % 2 ^ 12) (hr : r ≤ 4) :
    (acc >>> r).setWidth 8 = BitVec.ofNat 8 (n / 2 ^ r) := by
  obtain ⟨m, hm⟩ : ∃ m, 12 = r + (8 + m) := ⟨4 - r, by omega⟩
  apply BitVec.eq_of_toNat_eq
  rw [BitVec.toNat_ofNat, BitVec.toNat_setWidth, BitVec.toNat_ushiftRight, Nat.shiftRight_eq_div_pow, hacc, hm, pow_add,
    Nat.mod_mul_right_div_self, pow_add, Nat.mod_mul_right_mod]

theorem WideAgrees.step {e : Emitter} {w : WideEmitter} (h : WideAgrees e w) (hcnt : e.cnt ≤ 7) (u : Byte) :
    WideAgrees (emitStep e u) (wideStep w u) := by
  obtain ⟨hout, hwcnt, hacc⟩ := h
  cases hu : b32val u with
  | none =>
    simp only [emitStep_skip hu, wideStep, hu]
    exact ⟨hout, hwcnt, hacc⟩
  | some v =>
    have hshift : ((e.acc <<< 5) ||| v.setWidth 12).toNat = (w.acc * 32 + v.toNat) % 2 ^ 12 := by
      have hpow : 2 ^ 5 = 32 := rfl
      rw [shiftIn_toNat, hacc, Nat.add_mod, Nat.mod_mul_mod, ← Nat.add_mod, hpow]
    simp only [emitStep_value hu, emitValue, wideStep, hu, hout, hwcnt]
    split
    · exact ⟨by rw [emittedByte_eq_div hshift (by omega)], rfl, hshift⟩
    · exact ⟨rfl, rfl, hshift⟩

theorem runWide_agrees (t : List Byte) : WideAgrees (runEmitter t) (runWide t) := by
  induction t using List.reverseRecOn with
  | nil => exact ⟨rfl, rfl, rfl⟩
  | append_singleton t u ih =>
    rw [runEmitter_snoc, runWide_snoc]
    exact ih.step (runEmitter_cnt_le t) u

/-- The residual bits lie inside ACC (R106, R107). -/
theorem WideAgrees.residual {e : Emitter} {w : WideEmitter} (h : WideAgrees e w) (hcnt : e.cnt ≤ 7) :
    w.acc % 2 ^ w.cnt = e.acc.toNat % 2 ^ e.cnt := by
  rw [h.cnt, h.acc, Nat.mod_mod_of_dvd _ (Nat.pow_dvd_pow 2 (by omega))]

end Sys2Proof.Machine
end

section
/-! SUPPORT. Valid strings through normalization (41_validation.md R130, R133, R134), and DECODE after DECODE. -/

namespace Sys2Proof.Machine

theorem stripSpace_map_upper (s : List Byte) : stripSpace (s.map upper) = (stripSpace s).map upper := by
  rw [stripSpace, List.filter_map, stripSpace]
  congr 1
  exact List.filter_congr fun c _ => by simp

/-- Stripping padding leaves nothing of trailing padding, and cuts further only from what stands before it. -/
theorem stripTrailingPad_append {a p : List Byte} (hp : ∀ c ∈ p, isPad c = true) :
    stripTrailingPad (a ++ p) = stripTrailingPad a := by
  induction p using List.reverseRecOn with
  | nil => rw [List.append_nil]
  | append_singleton p c ih =>
    have hc : isPad c = true := hp c (by simp)
    rw [← List.append_assoc, stripTrailingPad, List.rdropWhile_concat_pos _ _ _ hc]
    exact ih fun d hd => hp d (by simp [hd])

/-- A valid string's normalized form is alphabet characters only (R134). -/
theorem b32valid.isSome_of_mem_normalize {s : List Byte} (h : b32valid s) : ∀ c ∈ normalize s, (b32val c).isSome := by
  obtain ⟨a, p, hs, -, halpha, hpad⟩ := h
  have hpad' : ∀ c ∈ p.map upper, isPad c = true := by simpa using hpad
  have hnorm : normalize s = stripTrailingPad (a.map upper) := by
    rw [normalize, stripSpace_map_upper, hs, List.map_append, stripTrailingPad_append hpad']
  intro c hc
  obtain ⟨d, hd, rfl⟩ := List.mem_map.1 ((List.rdropWhile_prefix _ _).mem (hnorm ▸ hc))
  exact halpha d hd

/-- A valid string has an alphabet character (R133). -/
theorem b32valid.alphabetValues_pos {s : List Byte} (h : b32valid s) : 1 ≤ (alphabetValues s).length := by
  obtain ⟨a, p, hs, hne, halpha, -⟩ := h
  obtain ⟨c, a, rfl⟩ := List.exists_cons_of_ne_nil hne
  obtain ⟨v, hv⟩ := Option.isSome_iff_exists.1 (halpha c List.mem_cons_self)
  have hc : c ∈ s := by
    have hstrip : c ∈ stripSpace s := hs ▸ List.mem_cons_self
    exact List.mem_of_mem_filter hstrip
  exact List.length_pos_of_mem (List.mem_filterMap.2 ⟨upper c, List.mem_map_of_mem hc, hv⟩)

/-- Two decodes of one secret string leave the same registers (R115). -/
theorem DecodeOutputs.congr {a b a' b' : Regs} (h : DecodeOutputs a b) (h' : DecodeOutputs a' b')
    (hsecret : secretString a = secretString a') :
    b.keyLen = b'.keyLen ∧ keyBytes b = keyBytes b' ∧ b.capHint = b'.capHint ∧ b.rcnt = b'.rcnt ∧
      b.rbits = b'.rbits ∧ b.nvalid = b'.nvalid :=
  ⟨BitVec.eq_of_toNat_eq (by rw [h.keyLen, h'.keyLen, hsecret]), by rw [h.key, h'.key, hsecret],
    BitVec.eq_of_toNat_eq (by rw [h.capHint, h'.capHint, hsecret]),
    BitVec.eq_of_toNat_eq (by rw [h.rcnt, h'.rcnt, hsecret]),
    BitVec.eq_of_toNat_eq (by rw [h.rbits, h'.rbits, hsecret]),
    BitVec.eq_of_toNat_eq (by rw [h.nvalid, h'.nvalid, hsecret])⟩

theorem secretString_commitDecode (d : Decoder) (r : Regs) : secretString (commitDecode d r) = secretString r := by
  rw [secretString, commitDecode_secret, commitDecode_secretLen, secretString]

theorem commitDecode_idem (d : Decoder) (r : Regs) : commitDecode d (commitDecode d r) = commitDecode d r := by
  rw [commitDecode, commitDecode_key, overwriteFront_idem]
  rfl

end Sys2Proof.Machine
end

section
/-! The statements of 40_base32_decoder.md on the decoder unit and DECODE, and of 41_validation.md on valid strings. -/

namespace Sys2Proof.Machine

/-- Settles O31: the decoder runs the machine over the uppercased string, of which it keeps what normalization keeps. -/
theorem paddingMachineMeasuresNormalizedString : Obligations.PaddingMachineMeasuresNormalizedString := by
  unfold Obligations.PaddingMachineMeasuresNormalizedString
  exact b32decode_kept

/-- Settles O32: the emitter takes in alphabet values only, and normalization removes none. -/
theorem emitterSkipsWhatNormalizationRemoves : Obligations.EmitterSkipsWhatNormalizationRemoves := by
  unfold Obligations.EmitterSkipsWhatNormalizationRemoves
  intro s
  rw [b32decode_eq, runEmitter_normalize]
  exact ⟨rfl, rfl⟩

/-- Settles O33: CNT is a remainder modulo 8, so what is emitted and what is left lie in the 12 bits that ACC keeps of
the unbounded accumulator. -/
theorem emitterBounds : Obligations.EmitterBounds := by
  unfold Obligations.EmitterBounds
  intro t u
  have hcnt := runEmitter_cnt_le t
  have hwide := runWide_agrees t
  exact ⟨hcnt, by omega, runEmitter_snoc t u ▸ emitStep_out_length_le _ u, hwide.out, hwide.cnt, hwide.residual hcnt⟩

/-- Settles O34: the emitter in closed form, with the residual bits below 2^CNT. -/
theorem decoderClosedForm : Obligations.DecoderClosedForm := by
  unfold Obligations.DecoderClosedForm
  intro s
  obtain ⟨hnvalid, hcnt, -, -⟩ := b32decode_emit_closedForm s
  have hout := b32decode_out s
  exact ⟨hnvalid, hout, hout ▸ closedBytes_length s, hcnt, b32decode_residual s, hcnt ▸ closedResidual_lt s⟩

/-- Settles O35: no more alphabet characters than characters, and no more of these than SECRET_LEN ≤ SECRET_CAP. -/
theorem decodedKeyFits : Obligations.DecodedKeyFits := by
  unfold Obligations.DecodedKeyFits
  intro s hinv
  have hsecret : (secretString s.regs).length ≤ s.regs.secretLen.toNat := List.length_take_le _ _
  have hk := alphabetValues_length_le (secretString s.regs)
  have hcap := hinv.regsLegal.secretLenLegal
  rw [b32decode_out, closedBytes_length, Params.keyCap]
  omega

/-- Settles O38: the registers DECODE leaves are those of the secret string, which it does not write; and overwriting
the key with the same bytes again changes nothing. -/
theorem decodeTwiceIsDecodeOnce : Obligations.DecodeTwiceIsDecodeOnce := by
  unfold Obligations.DecodeTwiceIsDecodeOnce
  constructor
  · intro s s' t t' hinv hinv' hsecret hexec hexec'
    obtain rfl := Host.Outcome.next.inj hexec
    obtain rfl := Host.Outcome.next.inj hexec'
    obtain ⟨hkeyLen, hkey, hrest⟩ := (commitDecode_outputs hinv.paramsLegal hinv.regsLegal).congr
      (commitDecode_outputs hinv'.paramsLegal hinv'.regsLegal) hsecret
    exact ⟨hkey, hkeyLen, hrest⟩
  · intro s t u hexec hexec'
    obtain rfl := Host.Outcome.next.inj hexec
    obtain rfl := Host.Outcome.next.inj hexec'
    simp only [complete_regs, secretString_commitDecode, commitDecode_idem]
    rfl

/-- Settles O41: one alphabet character is five bits, no whole byte, so GENERATE's key test finds an empty key. -/
theorem validStringMayDecodeToNothing : Obligations.ValidStringMayDecodeToNothing := by
  unfold Obligations.ValidStringMayDecodeToNothing
  intro s hvalid
  refine ⟨hvalid.alphabetValues_pos, fun hone => ?_⟩
  have hempty : 5 * (alphabetValues (secretString s.regs)).length / 8 = 0 := by rw [hone]
  have hout : (b32decode (secretString s.regs)).emit.out = [] := by
    rw [b32decode_out, ← List.length_eq_zero_iff, closedBytes_length, hempty]
  exact ⟨hout, _, exec_generate_emptyKey (decodeStage_eq s) ((commitDecode_keyLen_eq_zero_iff s.regs).2 hempty), rfl⟩

/-- Settles O42: a valid string normalizes to alphabet characters; the validator rejects the dash of JBSW-Y3DP, which
the decoder skips. -/
theorem predicateIsStricterThanDecoder : Obligations.PredicateIsStricterThanDecoder := by
  unfold Obligations.PredicateIsStricterThanDecoder
  refine ⟨fun s hs => hs.isSome_of_mem_normalize, ?_, by decide⟩
  rw [← validatorComputesThePredicate]
  decide

end Sys2Proof.Machine
end

section
/-! SUPPORT. PACK's and TREM's outputs as functions of the host's time and window (42_counter_packer.md R141 to R147,
46_time_remaining.md R233). -/

namespace Sys2Proof.Machine

/-- PACK with WINDOW ≥ 1, by what it leaves. -/
theorem exec_pack_outputs {s t : State} (hw : s.regs.window ≠ 0) (h : exec .pack s = .next t) :
    PackOutputs s.regs t.regs := by
  obtain rfl := Host.Outcome.next.inj (h.symm.trans (exec_pack_of_ne hw))
  exact commitPack_outputs s.regs

/-- Outputs of one time and one window are the same. -/
theorem PackOutputs.congr {a b a' b' : Regs} (h : PackOutputs a b) (h' : PackOutputs a' b')
    (hseconds : hostSeconds a = hostSeconds a') (hw : a.window = a'.window) :
    b.epoch = b'.epoch ∧ b.counter = b'.counter ∧ b.msg = b'.msg := by
  have hcounter : b.counter = b'.counter :=
    BitVec.eq_of_toNat_eq (by rw [h.counter, h'.counter, hseconds, hw])
  refine ⟨BitVec.eq_of_toNat_eq (by rw [h.epoch, h'.epoch, hseconds]), hcounter, Vector.ext fun i hi => ?_⟩
  refine BitVec.eq_of_toNat_eq ((h.msg ⟨i, hi⟩).trans ?_)
  rw [hcounter]
  exact (h'.msg ⟨i, hi⟩).symm

/-- The upper four bytes of a 64-bit counter are zero exactly when it is below 2^32 (R146). -/
theorem PackOutputs.msg_high_eq_zero_iff {a b : Regs} (h : PackOutputs a b) :
    (∀ i : Fin 8, i.val < 4 → b.msg.get i = 0) ↔ b.counter.toNat < 2 ^ 32 := by
  have hlt := b.counter.isLt
  have hmsg (i : Fin 8) : b.msg.get i = 0 ↔ b.counter.toNat / 2 ^ (56 - 8 * i.val) % 256 = 0 := by
    rw [← h.msg]
    exact BitVec.toNat_eq
  simp only [hmsg]
  constructor
  · intro hzero
    have h0 : b.counter.toNat / 2 ^ 56 % 256 = 0 := hzero 0 (by decide)
    have h1 : b.counter.toNat / 2 ^ 48 % 256 = 0 := hzero 1 (by decide)
    have h2 : b.counter.toNat / 2 ^ 40 % 256 = 0 := hzero 2 (by decide)
    have h3 : b.counter.toNat / 2 ^ 32 % 256 = 0 := hzero 3 (by decide)
    omega
  · intro hsmall i hi
    have hpow : 2 ^ 32 ≤ 2 ^ (56 - 8 * i.val) := Nat.pow_le_pow_right (by decide) (by omega)
    rw [Nat.div_eq_of_lt (hsmall.trans_le hpow)]

theorem hostSeconds_eq (r : Regs) : hostSeconds r = (hostTime r + 500) / 1000 := by
  rw [← epochOf_eq_add_div, ← timeMs_toNat, epochOf_timeMs]

theorem hostSeconds_mono {r r' : Regs} (h : hostTime r ≤ hostTime r') : hostSeconds r ≤ hostSeconds r' := by
  rw [hostSeconds_eq, hostSeconds_eq]
  omega

/-- A time within half a second of second `e`, a tie rounding up, has the epoch `e` (R141). -/
theorem hostSeconds_eq_of_near {r : Regs} {e : Nat} (hlo : 1000 * e ≤ hostTime r + 500)
    (hhi : hostTime r ≤ 1000 * e + 499) : hostSeconds r = e := by
  rw [hostSeconds_eq]
  omega

/-- The block after reset with a time of less than 2^32 milliseconds. -/
def timedState (ms : Word) : State :=
  { State.reset with regs := { State.reset.regs with timeLo := ms } }

/-- TREM with WINDOW ≥ 1, by what it leaves. -/
theorem exec_trem_outputs {s t : State} (hw : s.regs.window ≠ 0) (h : exec .trem s = .next t) :
    t.regs.epoch.toNat = hostSeconds s.regs ∧
      t.regs.trem.toNat = timeRemaining s.regs.window.toNat (hostSeconds s.regs) := by
  obtain rfl := Host.Outcome.next.inj (h.symm.trans (exec_trem_of_ne hw))
  exact ⟨commitTrem_epoch_toNat _ _, commitTrem_trem_toNat _⟩

/-- The seconds remaining lead to the first second of the next window (R233). -/
theorem timeRemaining_eq_sub {w : Nat} (hw : 0 < w) (e : Nat) : timeRemaining w e = (e / w + 1) * w - e := by
  have hdiv := Nat.div_add_mod e w
  have hmod := Nat.mod_lt e hw
  have hmul : (e / w + 1) * w = w * (e / w) + w := by ring
  rw [timeRemaining, hmul]
  omega

theorem timeRemaining_eq_self_iff {w : Nat} (hw : 0 < w) (e : Nat) : timeRemaining w e = w ↔ e % w = 0 := by
  have hmod := Nat.mod_lt e hw
  rw [timeRemaining]
  omega

end Sys2Proof.Machine
end

section
/-! The statements of 42_counter_packer.md on PACK's counter and message. -/

namespace Sys2Proof.Machine

/-- Settles O45: the upper message bytes are the digits of COUNTER from 256^4 up, and COUNTER ≤ EPOCH. -/
theorem highMessageBytesAreZero : Obligations.HighMessageBytesAreZero := by
  unfold Obligations.HighMessageBytesAreZero
  intro s t hw hexec
  have hout := exec_pack_outputs hw hexec
  refine ⟨hout.msg_high_eq_zero_iff, fun hepoch => hout.msg_high_eq_zero_iff.2 ?_⟩
  rw [hout.epoch] at hepoch
  rw [hout.counter]
  exact (Nat.div_le_self _ _).trans_lt hepoch

/-- Settles O46: COUNTER is the quotient by WINDOW of a rounding that is monotonic in the time. -/
theorem counterFollowsTheWindow : Obligations.CounterFollowsTheWindow := by
  unfold Obligations.CounterFollowsTheWindow
  refine ⟨?general, ?rounded⟩
  case general =>
    intro s s' t t' hw hw' hexec hexec'
    have hout := exec_pack_outputs hw hexec
    have hout' := exec_pack_outputs (hw' ▸ hw) hexec'
    have hpos : 0 < s.regs.window.toNat := BitVec.toNat_pos_of_ne_zero hw
    refine ⟨fun htime => ?_, fun n hlo hhi => ?_, fun e hlo hhi hlo' hhi' => ?_⟩
    · rw [hout.counter, hout'.counter, hw']
      exact Nat.div_le_div_right (hostSeconds_mono htime)
    · rw [hout.epoch] at hlo hhi
      have hsucc : (n + 1) * s.regs.window.toNat = n * s.regs.window.toNat + s.regs.window.toNat := Nat.succ_mul _ _
      rw [hout.counter]
      exact Nat.div_eq_of_lt_le hlo (by omega)
    · have hseconds := hostSeconds_eq_of_near hlo hhi
      have hseconds' := hostSeconds_eq_of_near hlo' hhi'
      obtain ⟨-, hcounter, -⟩ := hout.congr hout' (hseconds.trans hseconds'.symm) hw'.symm
      exact ⟨hout.epoch.trans hseconds, hout'.epoch.trans hseconds', hcounter⟩
  case rounded =>
    have hwindow : (30 : Word) ≠ 0 := by decide
    exact ⟨timedState 29400, timedState 29600, _, _, rfl, rfl, rfl, rfl, exec_pack_of_ne hwindow,
      exec_pack_of_ne hwindow, rfl, rfl⟩

end Sys2Proof.Machine
end

section
/-! SUPPORT. The padding, the schedule and the key block of SHA-1 and HMAC (43_hmac_sha1.md R161, R164, R167). -/

namespace Sys2Proof.Machine

/-! ### Padding -/

theorem padZeros_fills (n : Nat) : (n + 1 + padZeros n) % 64 = 56 := by
  rw [padZeros]
  omega

theorem padZeros_le {n y : Nat} (h : (n + 1 + y) % 64 = 56) : padZeros n ≤ y := by
  rw [padZeros]
  omega

theorem shaPad_length (m : List Byte) : (shaPad m).length = m.length + 1 + padZeros m.length + 8 := by
  simp [shaPad]
  omega

/-! ### The message schedule -/

theorem pieces_length (size n : Nat) (p : List Byte) : (pieces size n p).length = n := by
  induction n generalizing p with
  | zero => rfl
  | succ n ih => simp [pieces, ih]

theorem pieces_getElem? {size n i : Nat} (h : i < n) (p : List Byte) :
    (pieces size n p)[i]? = some ((p.drop (size * i)).take size) := by
  induction n generalizing p i with
  | zero => exact absurd h (Nat.not_lt_zero i)
  | succ n ih =>
    cases i with
    | zero => simp [pieces]
    | succ i => rw [pieces, List.getElem?_cons_succ, ih (by omega), List.drop_drop, Nat.mul_succ, Nat.add_comm]

theorem byteAt_take_drop {s : List Byte} {k n j : Nat} (h : j < n) :
    byteAt ((s.drop k).take n) j = byteAt s (k + j) := by
  simp [byteAt, h]

/-- A word is the big-endian number of its four bytes (R164). -/
theorem wordOfBytes_toNat (s : List Byte) :
    (wordOfBytes s).toNat =
      (byteAt s 0).toNat * 2 ^ 24 + (byteAt s 1).toNat * 2 ^ 16 + (byteAt s 2).toNat * 2 ^ 8 + (byteAt s 3).toNat := by
  simp only [wordOfBytes, toNat_append_eq_mul_add]
  ring

/-- The words of a block, before the schedule extends them. -/
def blockWords (b : List Byte) : List Word := (pieces 4 16 b).map wordOfBytes

theorem blockWords_length (b : List Byte) : (blockWords b).length = 16 := by
  rw [blockWords, List.length_map, pieces_length]

theorem blockWords_getD_toNat {b : List Byte} {t : Nat} (h : t < 16) :
    ((blockWords b).getD t 0).toNat =
      (byteAt b (4 * t)).toNat * 2 ^ 24 + (byteAt b (4 * t + 1)).toNat * 2 ^ 16 +
        (byteAt b (4 * t + 2)).toNat * 2 ^ 8 + (byteAt b (4 * t + 3)).toNat := by
  rw [blockWords, List.getD_eq_getElem?_getD, List.getElem?_map, pieces_getElem? h, Option.map_some, Option.getD_some,
    wordOfBytes_toNat, byteAt_take_drop (by decide), byteAt_take_drop (by decide), byteAt_take_drop (by decide),
    byteAt_take_drop (by decide), Nat.add_zero]

/-- The word that the recurrence puts at position `t` of a schedule (R164). -/
def nextWord (ws : List Word) (t : Nat) : Word :=
  rotl32 (ws.getD (t - 3) 0 ^^^ ws.getD (t - 8) 0 ^^^ ws.getD (t - 14) 0 ^^^ ws.getD (t - 16) 0) 1

/-- From its word 16 on, a schedule follows the recurrence (R164). -/
def FollowsRecurrence (ws : List Word) : Prop := ∀ t, 16 ≤ t → t < ws.length → ws.getD t 0 = nextWord ws t

theorem nextWord_append {ws : List Word} {t : Nat} (hlo : 16 ≤ t) (hhi : t ≤ ws.length) (w : Word) :
    nextWord (ws ++ [w]) t = nextWord ws t := by
  have hgetD {i : Nat} (hi : i < ws.length) : (ws ++ [w]).getD i 0 = ws.getD i 0 := List.getD_append _ _ _ _ hi
  rw [nextWord, hgetD (by omega), hgetD (by omega), hgetD (by omega), hgetD (by omega), nextWord]

theorem FollowsRecurrence.snoc {ws : List Word} (h : FollowsRecurrence ws) :
    FollowsRecurrence (ws ++ [nextWord ws ws.length]) := by
  intro t hlo hhi
  rw [List.length_append, List.length_singleton] at hhi
  rw [nextWord_append hlo (by omega)]
  obtain hlt | rfl := Nat.lt_succ_iff_lt_or_eq.1 hhi
  · rw [List.getD_append _ _ _ _ hlt, h t hlo hlt]
  · simp

/-- The recurrence on words that stand newest first, as `extendSchedule` keeps them. -/
theorem extendSchedule_succ {n : Nat} {ws : List Word} (h : 16 ≤ ws.length) :
    extendSchedule (n + 1) ws = extendSchedule n (nextWord ws.reverse ws.length :: ws) := by
  have newest {i : Nat} (hi : i < 16) : ws.reverse.getD (ws.length - (i + 1)) 0 = ws.getD i 0 := by
    have hlt : ws.length - (i + 1) < ws.reverse.length := by simp; omega
    rw [List.getD_eq_getElem _ _ hlt, List.getElem_reverse, List.getD_eq_getElem _ _ (by omega)]
    congr 1
    omega
  rw [nextWord, newest (by decide), newest (by decide), newest (by decide), newest (by decide), extendSchedule]

/-- The extended schedule starts with the words given and follows the recurrence. -/
theorem extendSchedule_followsRecurrence (n : Nat) {ws : List Word} (h : 16 ≤ ws.length)
    (hrec : FollowsRecurrence ws.reverse) :
    FollowsRecurrence (extendSchedule n ws).reverse ∧ (extendSchedule n ws).length = ws.length + n ∧
      ws.reverse <+: (extendSchedule n ws).reverse := by
  induction n generalizing ws with
  | zero => exact ⟨hrec, rfl, List.prefix_rfl⟩
  | succ n ih =>
    have hsnoc : (nextWord ws.reverse ws.length :: ws).reverse =
        ws.reverse ++ [nextWord ws.reverse ws.reverse.length] := by simp
    obtain ⟨hrec', hlength, hprefix⟩ := ih (ws := nextWord ws.reverse ws.length :: ws) (by simp; omega)
      (hsnoc ▸ hrec.snoc)
    rw [extendSchedule_succ h]
    exact ⟨hrec', by rw [hlength, List.length_cons]; omega, ((List.prefix_append _ _).trans (hsnoc ▸ hprefix))⟩

theorem schedule_followsRecurrence (b : List Byte) :
    FollowsRecurrence (schedule b) ∧ (schedule b).length = 80 ∧ blockWords b <+: schedule b := by
  have hlength : (blockWords b).reverse.length = 16 := by rw [List.length_reverse, blockWords_length]
  have hstart : FollowsRecurrence (blockWords b).reverse.reverse := by
    intro t hlo hhi
    rw [List.length_reverse, hlength] at hhi
    omega
  obtain ⟨hrec, hlen, hprefix⟩ := extendSchedule_followsRecurrence 64 hlength.ge hstart
  refine ⟨hrec, ?_, List.reverse_reverse (blockWords b) ▸ hprefix⟩
  rw [schedule, List.length_reverse]
  exact hlen.trans (by rw [hlength])

/-! ### The key block -/

/-- Zero bytes that keep a key within a block are the padding the key block gets anyway (R167). -/
theorem hmacKeyBlock_append_zeros {k : List Byte} {n : Nat} (h : k.length + n ≤ 64) :
    hmacKeyBlock (k ++ List.replicate n 0) = hmacKeyBlock k := by
  have hlong : ¬ 64 < (k ++ List.replicate n (0 : Byte)).length := by simpa using h
  have hshort : ¬ 64 < k.length := by omega
  have hsplit : 64 - k.length = n + (64 - (k.length + n)) := by omega
  simp only [hmacKeyBlock, if_neg hlong, if_neg hshort]
  rw [hsplit, List.replicate_add, List.append_assoc, List.length_append, List.length_replicate]

/-- HMAC under INTERNAL with a key, by the digest it leaves. -/
theorem exec_hmac_internal {s t : State} (hb : s.params.backend = .internal) (hkey : s.regs.keyLen ≠ 0)
    (h : exec .hmac s = .next t) :
    t.regs = commitDigest (hmacSha1 (keyBytes s.regs) (msgBytes s.regs)) s.regs := by
  rw [exec_hmac_of_ne hkey, digestStage_internal hb, Staged.finish_goesOn] at h
  rw [← Host.Outcome.next.inj h, complete_regs, digestCommitted]

end Sys2Proof.Machine
end

section
/-! The statements of 43_hmac_sha1.md on SHA-1's padding and schedule, on HMAC's key and on the HMAC operation. -/

namespace Sys2Proof.Machine

/-- Settles O49: `padZeros` is the least count that leaves room for the bit length at the end of a block. -/
theorem shaPaddingFillsBlocks : Obligations.ShaPaddingFillsBlocks := by
  unfold Obligations.ShaPaddingFillsBlocks
  intro m _
  have hfills := padZeros_fills m.length
  exact ⟨padZeros m.length, rfl, hfills, fun y => padZeros_le, by rw [shaPad_length]; omega⟩

/-- Settles O50: the schedule starts with the block's words, and each further word is put there by the recurrence. -/
theorem scheduleFollowsTheRecurrence : Obligations.ScheduleFollowsTheRecurrence := by
  unfold Obligations.ScheduleFollowsTheRecurrence
  intro b _
  obtain ⟨hrec, hlength, rest, hrest⟩ := schedule_followsRecurrence b
  refine ⟨hlength, fun t ht => ?_, fun t hlo hhi => hrec t hlo (hlength ▸ hhi)⟩
  rw [← blockWords_getD_toNat ht, ← hrest, List.getD_append _ _ _ _ (by rwa [blockWords_length])]

/-- Settles O51: HMAC reads its key through the key block alone. -/
theorem trailingZeroKeysAgree : Obligations.TrailingZeroKeysAgree := by
  unfold Obligations.TrailingZeroKeysAgree
  intro k m n hlength
  simp only [hmacSha1, hmacKeyBlock_append_zeros hlength]

/-- Settles O53: under INTERNAL the digest is HMAC_SHA1 of the key bytes and MSG, and nothing else. -/
theorem equalOperandsGiveEqualDigest : Obligations.EqualOperandsGiveEqualDigest := by
  unfold Obligations.EqualOperandsGiveEqualDigest
  intro s s' t t' hb hb' hkey hkeyLen hbytes hmsg hexec hexec'
  have hmsgBytes : msgBytes s.regs = msgBytes s'.regs := congrArg Vector.toList hmsg
  rw [exec_hmac_internal hb hkey hexec, exec_hmac_internal hb' (hkeyLen ▸ hkey) hexec', commitDigest_digest,
    commitDigest_digest, hbytes, hmsgBytes]

end Sys2Proof.Machine
end

section
/-! SUPPORT. A truncation is a function of DIGEST, and its code spells its otp (44_truncation.md R195). -/

namespace Sys2Proof.Machine

/-- Two truncations of one DIGEST are the same (R195). -/
theorem commitTrunc_congr {r r' : Regs} (h : r.digest = r'.digest) :
    (commitTrunc r).offset = (commitTrunc r').offset ∧ (commitTrunc r).binary = (commitTrunc r').binary ∧
      (commitTrunc r).otp = (commitTrunc r').otp ∧ (commitTrunc r).code = (commitTrunc r').code := by
  have hbytes : digestBytes r = digestBytes r' := congrArg Vector.toList h
  simp only [commitTrunc_offset, commitTrunc_binary, commitTrunc_otp, commitTrunc_code, hbytes, and_self]

/-- The six digits of a number below 10^6 spell it (R195). -/
theorem codeValue_codeOf {n : Nat} (h : n < 10 ^ 6) : codeValue (codeOf n) = n := by
  have hdigit (i : Nat) : (BitVec.ofNat 8 (0x30 + n / 10 ^ (5 - i) % 10)).toNat - 0x30 = n / 10 ^ (5 - i) % 10 := by
    have : n / 10 ^ (5 - i) % 10 < 10 := Nat.mod_lt _ (by decide)
    rw [BitVec.toNat_ofNat, Nat.mod_eq_of_lt (by omega), Nat.add_sub_cancel_left]
  have hspell : codeValue (codeOf n) = 10 * (10 * (10 * (10 * (10 * (10 * 0 + n / 10 ^ 5 % 10) + n / 10 ^ 4 % 10) +
      n / 10 ^ 3 % 10) + n / 10 ^ 2 % 10) + n / 10 ^ 1 % 10) + n / 10 ^ 0 % 10 := by
    simp only [codeValue, codeOf, Vector.toList_ofFn, List.ofFn_succ, List.ofFn_zero, List.foldl_cons, List.foldl_nil,
      hdigit]
    rfl
  rw [hspell]
  omega

theorem codeValue_commitTrunc (r : Regs) : codeValue (commitTrunc r).code = (commitTrunc r).otp.toNat := by
  rw [commitTrunc_code, commitTrunc_otp, otp_toNat]
  exact codeValue_codeOf (otpOf_lt _)

theorem exec_trunc_regs {s t : State} (h : exec .trunc s = .next t) : t.regs = commitTrunc s.regs := by
  obtain rfl := Host.Outcome.next.inj (h.symm.trans (exec_trunc s))
  rw [complete_regs]

end Sys2Proof.Machine
end

section
/-! The statement of 44_truncation.md on the range of TRUNC's outputs. -/

namespace Sys2Proof.Machine

/-- Settles O55: OFFSET and BINARY are as wide as their bounds, OTP is a remainder, and CODE its digits. -/
theorem truncOutputsInRange : Obligations.TruncOutputsInRange := by
  unfold Obligations.TruncOutputsInRange
  refine ⟨fun s t hexec => ?range, fun s s' t t' hdigest hexec hexec' => ?congr⟩
  case range =>
    have hout := commitTrunc_outputs s.regs
    rw [exec_trunc_regs hexec]
    refine ⟨Nat.le_of_lt_succ (commitTrunc s.regs).offset.isLt, (commitTrunc s.regs).binary.isLt, ?_, fun i => ?_,
      codeValue_commitTrunc s.regs⟩
    · rw [hout.otp]
      exact Nat.mod_lt _ (by decide)
    · have := Nat.mod_lt ((commitTrunc s.regs).otp.toNat / 10 ^ (5 - i.val)) (show 0 < 10 by decide)
      rw [hout.code]
      omega
  case congr =>
    rw [exec_trunc_regs hexec, exec_trunc_regs hexec']
    exact commitTrunc_congr hdigest

end Sys2Proof.Machine
end

section
/-! SUPPORT. All that GENERATE can do, and what the four stages of an OK one leave (45_generate.md R210, R211). -/

namespace Sys2Proof.Machine

/-- What the decode leaves of the registers. -/
def decodedRegs (r : Regs) : Regs := commitDecode (b32decode (secretString r)) r

/-- What the decode and the packer leave. -/
def packedRegs (r : Regs) : Regs := commitPack r.window.toNat (decodedRegs r)

/-- What the decode, the packer and the HMAC leave. -/
def digestedRegs (r : Regs) : Regs :=
  commitDigest (hmacSha1 (keyBytes (packedRegs r)) (msgBytes (packedRegs r))) (packedRegs r)

/-- The number of bytes the secret string decodes to (40_base32_decoder.md R110). -/
def decodedLength (r : Regs) : Nat := 5 * (alphabetValues (secretString r)).length / 8

/-- What is outside the block after a digest that did not fail. -/
def afterDigest (s : State) : Outside :=
  match s.params.backend with
  | .internal => s.outside
  | .external => (drawLibrary s.outside).2

/-- The library, where there is one, answers with a digest. -/
def Answers (s : State) : Prop := s.params.backend = .internal ∨ (drawLibrary s.outside).1 = true

theorem digestStage_of_answers {s : State} (h : Answers s) :
    digestStage s = .goesOn { s with
      regs := commitDigest (hmacSha1 (keyBytes s.regs) (msgBytes s.regs)) s.regs, outside := afterDigest s } := by
  obtain ⟨o, hstage, hinternal, hexternal⟩ := digestStage_succeeds h
  have ho : o = afterDigest s := by
    unfold afterDigest
    split
    next hb => exact hinternal hb
    next hb => exact hexternal hb
  rw [hstage, ho]

theorem decodedRegs_keyLen_eq_zero_iff (r : Regs) : (decodedRegs r).keyLen = 0 ↔ decodedLength r = 0 :=
  commitDecode_keyLen_eq_zero_iff r

theorem exec_generate_of_emptyKey {s : State} (h : decodedLength s.regs = 0) :
    exec .generate s = .next (complete .emptyKey { s with regs := decodedRegs s.regs }) :=
  exec_generate_emptyKey (decodeStage_eq s) ((decodedRegs_keyLen_eq_zero_iff s.regs).2 h)

theorem exec_generate_of_answers {s : State} (hkey : decodedLength s.regs ≠ 0) (hw : s.regs.window ≠ 0)
    (h : Answers s) :
    exec .generate s =
      .next (complete .ok { s with regs := commitTrunc (digestedRegs s.regs), outside := afterDigest s }) :=
  exec_generate_digested (decodeStage_eq s) (mt (decodedRegs_keyLen_eq_zero_iff s.regs).1 hkey) hw
    (digestStage_of_answers (s := { s with regs := packedRegs s.regs }) h)

/-- What GENERATE can do: the first of its failures, or all four stages (45_generate.md R210, R211). -/
theorem exec_generate_cases {s t : State} (h : exec .generate s = .next t) :
    (decodedLength s.regs = 0 ∧ t = complete .emptyKey { s with regs := decodedRegs s.regs }) ∨
    (decodedLength s.regs ≠ 0 ∧ s.regs.window = 0 ∧
      t = complete .badWindow { s with regs := decodedRegs s.regs }) ∨
    (decodedLength s.regs ≠ 0 ∧ s.regs.window ≠ 0 ∧ ¬ Answers s ∧
      t = complete .hashFailure { s with regs := packedRegs s.regs, outside := (drawLibrary s.outside).2 }) ∨
    (decodedLength s.regs ≠ 0 ∧ s.regs.window ≠ 0 ∧ Answers s ∧
      t = complete .ok { s with regs := commitTrunc (digestedRegs s.regs), outside := afterDigest s }) := by
  have ht {u : State} (hu : exec .generate s = .next u) : t = u := Host.Outcome.next.inj (h.symm.trans hu)
  by_cases hempty : decodedLength s.regs = 0
  · exact .inl ⟨hempty, ht (exec_generate_of_emptyKey hempty)⟩
  have hkey := mt (decodedRegs_keyLen_eq_zero_iff s.regs).1 hempty
  by_cases hw : s.regs.window = 0
  · exact .inr (.inl ⟨hempty, hw, ht (exec_generate_badWindow (decodeStage_eq s) hkey hw)⟩)
  by_cases hanswers : Answers s
  · exact .inr (.inr (.inr ⟨hempty, hw, hanswers, ht (exec_generate_of_answers hempty hw hanswers)⟩))
  · obtain ⟨hinternal, hfails⟩ := not_or.1 hanswers
    have hb : s.params.backend = .external := by
      cases hb : s.params.backend with
      | internal => exact absurd hb hinternal
      | external => rfl
    have hdigest := digestStage_failed (s := { s with regs := packedRegs s.regs }) hb (eq_false_of_ne_true hfails)
    exact .inr (.inr (.inl ⟨hempty, hw, hanswers, ht (exec_generate_digestRaised (decodeStage_eq s) hkey hw hdigest)⟩))

/-- GENERATE completes with OK in the fourth case only. -/
theorem exec_generate_ok {s t : State} (h : exec .generate s = .next t) (hok : t.status.result = .ok) :
    decodedLength s.regs ≠ 0 ∧ s.regs.window ≠ 0 ∧ Answers s ∧
      t = complete .ok { s with regs := commitTrunc (digestedRegs s.regs), outside := afterDigest s } := by
  obtain ⟨-, rfl⟩ | ⟨-, -, rfl⟩ | ⟨-, -, -, rfl⟩ | hcase := exec_generate_cases h
  · cases hok
  · cases hok
  · cases hok
  · exact hcase

/-! ### The outputs of the stages -/

/-- Element `i` of the big-endian spelling of a number (00_scope.md R9). -/
theorem bytesBe_getElem {v n i : Nat} (h : i < (bytesBe v n).length) :
    (bytesBe v n)[i] = BitVec.ofNat 8 (v / 256 ^ (n - 1 - i)) := by
  induction n generalizing i with
  | zero => exact absurd h (Nat.not_lt_zero i)
  | succ n ih =>
    cases i with
    | zero => simp [bytesBe]
    | succ i =>
      simp only [bytesBe, List.getElem_cons_succ, ih]
      congr 3
      omega

/-- The message of a counter is its 8-byte big-endian spelling (42_counter_packer.md R145). -/
theorem messageOf_toList (c : BitVec 64) : (messageOf c).toList = bytesBe c.toNat 8 := by
  refine List.ext_getElem (by simp) fun i hi _ => ?_
  have hi8 : i < 8 := by simpa using hi
  have hpow : 256 ^ (8 - 1 - i) = 2 ^ (56 - 8 * i) := by
    rw [show 256 = 2 ^ 8 from rfl, ← pow_mul]
    congr 1
    omega
  rw [bytesBe_getElem, hpow]
  refine BitVec.eq_of_toNat_eq ?_
  rw [BitVec.toNat_ofNat, Vector.getElem_toList]
  exact messageOf_get_toNat c ⟨i, hi8⟩

theorem msgBytes_packedRegs (r : Regs) : msgBytes (packedRegs r) = bytesBe (packedRegs r).counter.toNat 8 := by
  rw [msgBytes, packedRegs, commitPack_msg, messageOf_toList, commitPack_counter]

theorem packedRegs_packOutputs (r : Regs) : PackOutputs r (packedRegs r) :=
  (commitPack_outputs (decodedRegs r)).of_commitDecode

theorem packedRegs_decodeOutputs {p : Params} {r : Regs} (hp : p.wf = true) (h : RegsInv p r) :
    DecodeOutputs r (packedRegs r) := (commitDecode_outputs hp h).commitPack _

/-- DIGEST is no output of the decode or the packer. -/
theorem DecodeOutputs.digest {a b : Regs} (h : DecodeOutputs a b) (d : Vector Byte 20) :
    DecodeOutputs a { b with digest := d } :=
  ⟨h.key, h.keyTail, h.keySize, h.keyLen, h.capHint, h.rcnt, h.rbits, h.nvalid⟩

theorem PackOutputs.digest {a b : Regs} (h : PackOutputs a b) (d : Vector Byte 20) :
    PackOutputs a { b with digest := d } := ⟨h.epoch, h.counter, h.msg⟩

/-- A truncation writes no output of the decode or the packer. -/
theorem DecodeOutputs.commitTrunc {a b : Regs} (h : DecodeOutputs a b) : DecodeOutputs a (commitTrunc b) :=
  ⟨h.key, h.keyTail, h.keySize, h.keyLen, h.capHint, h.rcnt, h.rbits, h.nvalid⟩

theorem PackOutputs.commitTrunc {a b : Regs} (h : PackOutputs a b) : PackOutputs a (commitTrunc b) :=
  ⟨h.epoch, h.counter, h.msg⟩

theorem digestedRegs_digest_toList (r : Regs) :
    (digestedRegs r).digest.toList = hmacSha1 (keyBytes (packedRegs r)) (bytesBe (packedRegs r).counter.toNat 8) := by
  rw [digestedRegs, commitDigest_digest_toList (hmacSha1_length _ _), msgBytes_packedRegs]

/-- The outputs of an OK GENERATE (45_generate.md R210). -/
structure GenerateOutputs (a b : Regs) : Prop where
  decode : DecodeOutputs a b
  pack : PackOutputs a b
  digest : b.digest.toList = hmacSha1 (closedBytes (secretString a)) (bytesBe b.counter.toNat 8)
  trunc : ∃ r : Regs, r.digest = b.digest ∧ b = commitTrunc r

theorem commitTrunc_digestedRegs_outputs {p : Params} {r : Regs} (hp : p.wf = true) (h : RegsInv p r) :
    GenerateOutputs r (commitTrunc (digestedRegs r)) := by
  have hdecode := packedRegs_decodeOutputs hp h
  refine ⟨(hdecode.digest _).commitTrunc, ((packedRegs_packOutputs r).digest _).commitTrunc, ?_, _, ?_, rfl⟩
  · rw [commitTrunc_digest, digestedRegs_digest_toList, hdecode.key, commitTrunc_counter, digestedRegs,
      commitDigest_counter]
  · rw [commitTrunc_digest]

end Sys2Proof.Machine
end

section
/-! SUPPORT. How GENERATE ends under INTERNAL, and two OK runs of it compared (45_generate.md R211, R212). -/

namespace Sys2Proof.Machine

/-- The result GENERATE reports under INTERNAL, by its operands (45_generate.md R211). -/
def generateResult (r : Regs) : ResultCode :=
  if decodedLength r = 0 then .emptyKey else if r.window = 0 then .badWindow else .ok

theorem exec_generate_result {s t : State} (hb : s.params.backend = .internal) (h : exec .generate s = .next t) :
    t.status.result = generateResult s.regs := by
  unfold generateResult
  obtain ⟨hempty, rfl⟩ | ⟨hkey, hw, rfl⟩ | ⟨-, -, hfails, -⟩ | ⟨hkey, hw, -, rfl⟩ := exec_generate_cases h
  · rw [if_pos hempty, complete_status, Status.completed_result]
  · rw [if_neg hkey, if_pos hw, complete_status, Status.completed_result]
  · exact absurd (.inl hb) hfails
  · rw [if_neg hkey, if_neg hw, complete_status, Status.completed_result]

/-- Under the invariant GENERATE leaves the decode of the secret string, however it ends. -/
theorem exec_generate_decodeOutputs {s t : State} (hinv : Inv s) (h : exec .generate s = .next t) :
    DecodeOutputs s.regs t.regs := by
  have hdecoded : DecodeOutputs s.regs (decodedRegs s.regs) := commitDecode_outputs hinv.paramsLegal hinv.regsLegal
  obtain ⟨-, rfl⟩ | ⟨-, -, rfl⟩ | ⟨-, -, -, rfl⟩ | ⟨-, -, -, rfl⟩ := exec_generate_cases h
  · exact hdecoded
  · exact hdecoded
  · exact hdecoded.commitPack _
  · exact (commitTrunc_digestedRegs_outputs hinv.paramsLegal hinv.regsLegal).decode

theorem exec_generate_ok_outputs {s t : State} (hinv : Inv s) (h : exec .generate s = .next t)
    (hok : t.status.result = .ok) : GenerateOutputs s.regs t.regs := by
  obtain ⟨-, -, -, rfl⟩ := exec_generate_ok h hok
  exact commitTrunc_digestedRegs_outputs hinv.paramsLegal hinv.regsLegal

theorem exec_generate_of_result_emptyKey {s t : State} (h : exec .generate s = .next t)
    (hempty : t.status.result = .emptyKey) :
    decodedLength s.regs = 0 ∧ t = complete .emptyKey { s with regs := decodedRegs s.regs } := by
  obtain hcase | ⟨-, -, rfl⟩ | ⟨-, -, -, rfl⟩ | ⟨-, -, -, rfl⟩ := exec_generate_cases h
  · exact hcase
  · cases hempty
  · cases hempty
  · cases hempty

/-- HMAC with a key and a digest that does not fail. -/
theorem exec_hmac_of_answers {s : State} (hkey : s.regs.keyLen ≠ 0) (h : Answers s) :
    exec .hmac s = .next (complete .ok { s with
      regs := commitDigest (hmacSha1 (keyBytes s.regs) (msgBytes s.regs)) s.regs, outside := afterDigest s }) := by
  rw [exec_hmac_of_ne hkey, digestStage_of_answers h, Staged.finish_goesOn]

/-- The digest and the code of an OK GENERATE come from the key and the counter alone (R212). -/
theorem GenerateOutputs.digest_congr {a b a' b' : Regs} (h : GenerateOutputs a b) (h' : GenerateOutputs a' b')
    (hkey : keyBytes b = keyBytes b') (hcounter : b.counter = b'.counter) :
    b.digest = b'.digest ∧ b.offset = b'.offset ∧ b.binary = b'.binary ∧ b.otp = b'.otp ∧ b.code = b'.code := by
  have hdigest : b.digest = b'.digest :=
    Vector.toList_inj.1 (by rw [h.digest, h'.digest, ← h.decode.key, ← h'.decode.key, hkey, hcounter])
  obtain ⟨r, hr, rfl⟩ := h.trunc
  obtain ⟨r', hr', rfl⟩ := h'.trunc
  exact ⟨hdigest, commitTrunc_congr (hr.trans (hdigest.trans hr'.symm))⟩

theorem hostSeconds_congr {r r' : Regs} (hlo : r.timeLo = r'.timeLo) (hhi : r.timeHi = r'.timeHi) :
    hostSeconds r = hostSeconds r' := by
  rw [hostSeconds_eq, hostSeconds_eq, hostTime, hostTime, hlo, hhi]

end Sys2Proof.Machine
end

section
/-! The statements of 45_generate.md on GENERATE, and of 46_time_remaining.md on TREM beside PACK and GENERATE. -/

namespace Sys2Proof.Machine

/-- Settles O56: none of the stages raises, and each leaves the registers of the stages before it. -/
theorem generateCompletesWithACode : Obligations.GenerateCompletesWithACode := by
  unfold Obligations.GenerateCompletesWithACode
  refine ⟨decode_eq_ok_iff.2 rfl, fun s hinv hkey hw hanswers => ?_⟩
  obtain ⟨hdecode, hpack, hdigest, -⟩ := commitTrunc_digestedRegs_outputs hinv.paramsLegal hinv.regsLegal
  refine ⟨_, exec_generate_of_answers hkey hw hanswers, rfl, ?_⟩
  have hinternal (hb : s.params.backend = .internal) : afterDigest s = s.outside := by rw [afterDigest, hb]
  have hexternal (hb : s.params.backend = .external) : afterDigest s = (drawLibrary s.outside).2 := by
    rw [afterDigest, hb]
  refine ⟨?_, ?_, ?_, ?_, ?_, ?_, ?_, hinternal, hexternal, hdecode, hpack, hdigest, commitTrunc_outputs _,
    codeValue_commitTrunc _⟩ <;>
    simp [digestedRegs, packedRegs, decodedRegs]

/-- Settles O58: each command of the sequence is the completion of one stage of GENERATE, and the last completion hides
the earlier ones. -/
theorem generateIsTheFourUnitsInSequence : Obligations.GenerateIsTheFourUnitsInSequence := by
  unfold Obligations.GenerateIsTheFourUnitsInSequence
  intro s t hexec
  have hdecode : exec .decode s = .next (complete .ok { s with regs := decodedRegs s.regs }) := exec_decode s
  refine ⟨fun hok => ?ok, fun hempty => ?emptyKey⟩
  case ok =>
    obtain ⟨hlength, hw, hanswers, rfl⟩ := exec_generate_ok hexec hok
    have hkey := mt (decodedRegs_keyLen_eq_zero_iff s.regs).1 hlength
    exact ⟨_, _, _, hdecode, exec_pack_of_ne hw, exec_hmac_of_answers hkey hanswers, exec_trunc _⟩
  case emptyKey =>
    obtain ⟨hlength, rfl⟩ := exec_generate_of_result_emptyKey hexec hempty
    have hkey := (decodedRegs_keyLen_eq_zero_iff s.regs).2 hlength
    by_cases hw : s.regs.window = 0
    · exact ⟨_, _, _, hdecode, exec_pack_of_eq hw, exec_hmac_of_eq hkey, rfl, rfl, fun hne => absurd hw hne⟩
    · refine ⟨_, _, _, hdecode, exec_pack_of_ne hw, exec_hmac_of_eq hkey, rfl, rfl, fun _ => ?_⟩
      have hepoch := (packedRegs_packOutputs s.regs).epoch
      rwa [← epochOf_timeMs, timeMs_toNat] at hepoch

/-- Settles O59: under INTERNAL the operands fix which stage ends the operation and what each stage leaves. -/
theorem generateDependsOnlyOnItsOperands : Obligations.GenerateDependsOnlyOnItsOperands := by
  unfold Obligations.GenerateDependsOnlyOnItsOperands
  intro s s' t t' hinv hinv' hb hb' hexec hexec'
  refine ⟨fun hsecret hlo hhi hw => ?operands, fun hok hok' hkey hcounter => ?keyAndCounter⟩
  case operands =>
    have hresult : t.status.result = t'.status.result := by
      rw [exec_generate_result hb hexec, exec_generate_result hb' hexec', generateResult, generateResult, decodedLength,
        decodedLength, hsecret, hw]
    obtain ⟨hkeyLen, hkey, hcapHint, hrcnt, hrbits, hnvalid⟩ :=
      (exec_generate_decodeOutputs hinv hexec).congr (exec_generate_decodeOutputs hinv' hexec') hsecret
    refine ⟨hresult, hkeyLen, hkey, hcapHint, hrcnt, hrbits, hnvalid, fun hok => ?_⟩
    have hout := exec_generate_ok_outputs hinv hexec hok
    have hout' := exec_generate_ok_outputs hinv' hexec' (hresult ▸ hok)
    obtain ⟨hepoch, hcounter, hmsg⟩ := hout.pack.congr hout'.pack (hostSeconds_congr hlo hhi) hw
    exact ⟨hepoch, hcounter, hmsg, hout.digest_congr hout' hkey hcounter⟩
  case keyAndCounter =>
    have hout := exec_generate_ok_outputs hinv hexec hok
    have hout' := exec_generate_ok_outputs hinv' hexec' hok'
    obtain ⟨hdigest, -, -, -, hcode⟩ := hout.digest_congr hout' hkey hcounter
    exact ⟨hdigest, hcode⟩

/-- Settles O48: TREM and PACK round the same time, and the packing stage of an OK GENERATE is PACK's. -/
theorem tremAndPackAgree : Obligations.TremAndPackAgree := by
  unfold Obligations.TremAndPackAgree
  intro s t u hw hpack htrem
  have hpos : 0 < s.regs.window.toNat := BitVec.toNat_pos_of_ne_zero hw
  have hout := exec_pack_outputs hw hpack
  obtain ⟨hepoch, htremValue⟩ := exec_trem_outputs hw htrem
  refine ⟨?value, ?edge, BitVec.eq_of_toNat_eq (hepoch.trans hout.epoch.symm), fun g hgenerate hok => ?counter⟩
  case value => rw [htremValue, hout.counter, hout.epoch, timeRemaining_eq_sub hpos]
  case edge => rw [← BitVec.toNat_inj, htremValue, hepoch, timeRemaining_eq_self_iff hpos]
  case counter =>
    obtain ⟨-, -, -, rfl⟩ := exec_generate_ok hgenerate hok
    have hcounter : (commitTrunc (digestedRegs s.regs)).counter = (packedRegs s.regs).counter := by
      rw [commitTrunc_counter, digestedRegs, commitDigest_counter]
    obtain ⟨-, hpacked, -⟩ := (packedRegs_packOutputs s.regs).congr hout rfl rfl
    exact hcounter.trans hpacked

end Sys2Proof.Machine
end
